-- ==== Sys2Proof/Word.lean ====
section
/-! DEFINITION. The word types of paosc-1 (00_scope.md R8, R9). Bit 0 is the least significant bit of every `BitVec`. -/

namespace Sys2Proof

/-- A byte, used only by the host's byte view of an entry or a word (R59). -/
abbrev Byte := BitVec 8

/-- A command word or a response word: 64 bits (R8, R59). -/
abbrev Word := BitVec 64

/-- A 16-bit Q2.14 pattern: a control sample, an amplitude, an offset part or an output part (R8). -/
abbrev Q214 := BitVec 16

/-- A phase: 32 bits, unsigned, in units of 2^-32 cycle (R8, R28). -/
abbrev Phase := BitVec 32

/-- A frequency or the coefficient: 32 bits, two's complement, in units of 2^-32 cycle per sample (R8, R29, R33). -/
abbrev Freq := BitVec 32

/-- An entry of the OUT window, `{Q, I}` (R52, R53). -/
abbrev Quad := BitVec 32

/-- A window index as the 16-bit index bus carries it (R50). -/
abbrev Index := BitVec 16

end Sys2Proof
end

