-- ==== Sys2Proof/Config.lean ====
section
/-! DEFINITION. What one build of paosc-1 fixes (00_scope.md R7), and the values the spec leaves free (R57, R167). -/

namespace Sys2Proof

/-- The phase-to-sample function of a build (R7, R144, R167), as plain data (log entry 2, DESIGN CHOICE). Every total function of
the 32-bit phase is a `table`, the one with `bits = 32` at the latest. -/
inductive PtsChoice where
  /-- `PTS_default`, whose values R171 tabulates. -/
  | quadrature
  /-- A look-up table: entry `i` is the sample of the phases whose `bits` upper bits are `i`. -/
  | table (bits : Nat) (entries : List (Q214 × Q214))
  /-- A function of which nothing is known but that it is one; the number tells several apart. -/
  | other (id : Nat)
  deriving DecidableEq, Repr

/-- "any total function" (R7): a table has an entry for every phase. -/
def PtsChoice.total : PtsChoice → Bool
  | .quadrature => true
  | .table bits entries => decide (bits ≤ 32) && entries.length == 2 ^ bits
  | .other _ => true

/-- The synthesis-time parameters of R7. "A build is one choice of all five"; no command reads or writes them. -/
structure Build where
  /-- `W`, the BX value width in bits. -/
  w : Nat
  /-- `TW`, the SR symbol width in bits. -/
  tw : Nat
  /-- `NW`, the SR repeat-count width in bits. -/
  nw : Nat
  /-- `DEPTH`, the entries in each window memory. -/
  depth : Nat
  /-- `PTS`, the phase-to-sample function. -/
  pts : PtsChoice
  deriving DecidableEq, Repr

/-- The defaults of R7's table. -/
def Build.standard : Build :=
  { w := 8, tw := 8, nw := 16, depth := 65536, pts := .quadrature }

/-- The legal ranges of R7's table. "A build outside the range is not a build of this hardware." -/
structure Build.Legal (b : Build) : Prop where
  w_pos : 1 ≤ b.w
  w_le : b.w ≤ 32
  tw_pos : 1 ≤ b.tw
  tw_le : b.tw ≤ 32
  nw_pos : 1 ≤ b.nw
  nw_le : b.nw ≤ 24
  depth_pos : 1 ≤ b.depth
  depth_le : b.depth ≤ 65536
  pts_total : b.pts.total = true

/-- The phase-to-sample functions of which nothing is known. FREE VALUE (log entry 2, DESIGN CHOICE): R167 lets a model assume nothing of
`PTS` but that it is a total function of the phase, so no body is given. -/
opaque Config.otherPts : Nat → Phase → Q214 × Q214

/-- What the host's `n`-th read of an unwritten entry returns, if the entry is one of IN. FREE VALUE (R57, log entry 6, DESIGN CHOICE). -/
opaque Config.unwrittenIn : Nat → Q214

/-- What the host's `n`-th read of an unwritten entry returns, if the entry is one of OUT. FREE VALUE (R57, log entry 6, DESIGN CHOICE). -/
opaque Config.unwrittenOut : Nat → Quad

end Sys2Proof
end

