-- ==== Sys2Proof/Syntax.lean ====
section
/-! DEFINITION. The twenty commands of spec/opcode_table.json, one constructor a row (30_encoding.md R72, R76). -/

namespace Sys2Proof

/-- A decoded command. Where an operand's width is a parameter of the build (R7), the field has the width of the
command field it is taken from, and `Instr.wellFormed` bounds it. -/
inductive Instr where
  /-- `bx.load v` (R101): `v` is `W` bits of field D. -/
  | bxLoad (v : BitVec 32)
  /-- `bx.pull` (R103). -/
  | bxPull
  /-- `bx.stat` (R105). -/
  | bxStat
  /-- `sr.load v, n` (R121): `v` is `TW` bits of field D, `n` is `NW` bits of field A. -/
  | srLoad (v : BitVec 32) (n : BitVec 24)
  /-- `sr.pull` (R123). -/
  | srPull
  /-- `sr.stat` (R125). -/
  | srStat
  /-- `osc.setamp v` (R146). -/
  | oscSetamp (v : Q214)
  /-- `osc.setoffi v` (R147). -/
  | oscSetoffi (v : Q214)
  /-- `osc.setoffq v` (R148). -/
  | oscSetoffq (v : Q214)
  /-- `osc.setcoeff v` (R149). -/
  | oscSetcoeff (v : Freq)
  /-- `osc.setphase v` (R150). -/
  | oscSetphase (v : Phase)
  /-- `osc.setfreq v` (R151). -/
  | oscSetfreq (v : Freq)
  /-- `osc.rdamp` (R153). -/
  | oscRdamp
  /-- `osc.rdoffi` (R154). -/
  | oscRdoffi
  /-- `osc.rdoffq` (R155). -/
  | oscRdoffq
  /-- `osc.rdcoeff` (R156). -/
  | oscRdcoeff
  /-- `osc.rdphase` (R157). -/
  | oscRdphase
  /-- `osc.rdfreq` (R158). -/
  | oscRdfreq
  /-- `osc.rdstat` (R159). -/
  | oscRdstat
  /-- `osc.process ni, no, eoi` (R160). -/
  | oscProcess (ni no : BitVec 16) (eoi : Bool)
  deriving DecidableEq, Repr

end Sys2Proof
end

