-- ==== Sys2Proof/WellFormed.lean ====
section
/-! DEFINITION. Which commands exist in a build: the operands whose width R7 makes a parameter fit that width (30_encoding.md R72, R78). -/

namespace Sys2Proof

/-- `v` is a `W`-bit value, `TW`-bit symbol and `NW`-bit count respectively; every other operand's width is fixed by its type. -/
def Instr.wellFormed (b : Build) : Instr → Bool
  | .bxLoad v => v.toNat < 2 ^ b.w
  | .srLoad v n => v.toNat < 2 ^ b.tw && n.toNat < 2 ^ b.nw
  | .bxPull | .bxStat | .srPull | .srStat => true
  | .oscSetamp _ | .oscSetoffi _ | .oscSetoffq _ => true
  | .oscSetcoeff _ | .oscSetphase _ | .oscSetfreq _ => true
  | .oscRdamp | .oscRdoffi | .oscRdoffq | .oscRdcoeff | .oscRdphase | .oscRdfreq | .oscRdstat => true
  | .oscProcess _ _ _ => true

end Sys2Proof
end

