-- ==== Sys2Proof/Decode.lean ====
section
/-! DEFINITION. The command decoder (30_encoding.md R77), the opcode map with its masks (R76, R78), and the encoder (R83). -/

namespace Sys2Proof

/-- Field OPC of a command word, bits 63:56 (R71). -/
def opcField (c : Word) : BitVec 8 := c.extractLsb' 56 8

/-- Field A of a command word, bits 55:32 (R71). -/
def aField (c : Word) : BitVec 24 := c.extractLsb' 32 24

/-- Field D of a command word, bits 31:0 (R71). -/
def dField (c : Word) : BitVec 32 := c.extractLsb' 0 32

/-- `v[N-1:k] == 0` for an `N`-bit field; true of every `v` when `k = N`, as R77's `W == 32 or …` has it. -/
def clearAbove {n : Nat} (k : Nat) (v : BitVec n) : Bool := v >>> k == 0

/-- The `osc.set*` row for register index `r` (R36, R77); indices 6 and 7 are illegal, and the 16-bit registers need `D[31:16] == 0`. -/
def decodeOscSet (r : BitVec 3) (d : BitVec 32) : Option Instr :=
  if r = 0 then if clearAbove 16 d then some (.oscSetamp (d.extractLsb' 0 16)) else none
  else if r = 1 then if clearAbove 16 d then some (.oscSetoffi (d.extractLsb' 0 16)) else none
  else if r = 2 then if clearAbove 16 d then some (.oscSetoffq (d.extractLsb' 0 16)) else none
  else if r = 3 then some (.oscSetcoeff d)
  else if r = 4 then some (.oscSetphase d)
  else if r = 5 then some (.oscSetfreq d)
  else none

/-- The `osc.rd*` row for register index `r` (R36, R77); index 7 is illegal. -/
def decodeOscRd (r : BitVec 3) : Option Instr :=
  if r = 0 then some .oscRdamp
  else if r = 1 then some .oscRdoffi
  else if r = 2 then some .oscRdoffq
  else if r = 3 then some .oscRdcoeff
  else if r = 4 then some .oscRdphase
  else if r = 5 then some .oscRdfreq
  else if r = 6 then some .oscRdstat
  else none

/-- R77's `case opc of`, on the three fields of a word. `none` is ILLEGAL. -/
def decodeFields (b : Build) (opc : BitVec 8) (a : BitVec 24) (d : BitVec 32) : Option Instr :=
  if opc = 0x10 then if a = 0 ∧ clearAbove b.w d then some (.bxLoad d) else none
  else if opc = 0x11 then if a = 0 ∧ d = 0 then some .bxPull else none
  else if opc = 0x12 then if a = 0 ∧ d = 0 then some .bxStat else none
  else if opc = 0x20 then if clearAbove b.nw a ∧ clearAbove b.tw d then some (.srLoad d a) else none
  else if opc = 0x21 then if a = 0 ∧ d = 0 then some .srPull else none
  else if opc = 0x22 then if a = 0 ∧ d = 0 then some .srStat else none
  else if opc = 0x30 then if clearAbove 3 a then decodeOscSet (a.extractLsb' 0 3) d else none
  else if opc = 0x31 then if clearAbove 3 a ∧ d = 0 then decodeOscRd (a.extractLsb' 0 3) else none
  else if opc = 0x40 then
    if clearAbove 1 a then some (.oscProcess (d.extractLsb' 0 16) (d.extractLsb' 16 16) (a.getLsbD 0)) else none
  else none

/-- The total decoder of R77. It reads the word and the build's `W`, `TW`, `NW`, and no state (R81). -/
def decode (b : Build) (c : Word) : Option Instr := decodeFields b (opcField c) (aField c) (dField c)

/-- Opcode of each command (R76, R79). -/
def Instr.opc : Instr → BitVec 8
  | .bxLoad _ => 0x10
  | .bxPull => 0x11
  | .bxStat => 0x12
  | .srLoad _ _ => 0x20
  | .srPull => 0x21
  | .srStat => 0x22
  | .oscSetamp _ | .oscSetoffi _ | .oscSetoffq _ | .oscSetcoeff _ | .oscSetphase _ | .oscSetfreq _ => 0x30
  | .oscRdamp | .oscRdoffi | .oscRdoffq | .oscRdcoeff | .oscRdphase | .oscRdfreq | .oscRdstat => 0x31
  | .oscProcess _ _ _ => 0x40

/-- Field A of each command (R83): the count, the register index of R36, or the flag `eoi`. -/
def Instr.fieldA : Instr → BitVec 24
  | .bxLoad _ | .bxPull | .bxStat | .srPull | .srStat => 0
  | .srLoad _ n => n
  | .oscSetamp _ | .oscRdamp => 0
  | .oscSetoffi _ | .oscRdoffi => 1
  | .oscSetoffq _ | .oscRdoffq => 2
  | .oscSetcoeff _ | .oscRdcoeff => 3
  | .oscSetphase _ | .oscRdphase => 4
  | .oscSetfreq _ | .oscRdfreq => 5
  | .oscRdstat => 6
  | .oscProcess _ _ eoi => if eoi then 1 else 0

/-- Field D of each command (R83): a zero-extended value, or the two window counts `{no, ni}`. -/
def Instr.fieldD : Instr → BitVec 32
  | .bxLoad v | .srLoad v _ => v
  | .oscSetamp v | .oscSetoffi v | .oscSetoffq v => v.setWidth 32
  | .oscSetcoeff v | .oscSetphase v | .oscSetfreq v => v
  | .oscProcess ni no _ => no ++ ni
  | .bxPull | .bxStat | .srPull | .srStat => 0
  | .oscRdamp | .oscRdoffi | .oscRdoffq | .oscRdcoeff | .oscRdphase | .oscRdfreq | .oscRdstat => 0

/-- The word `{OPC, A, D}` of a command (R71, R83). -/
def encode (i : Instr) : Word := i.opc ++ i.fieldA ++ i.fieldD

/-- The mnemonic of each command's row in spec/opcode_table.json. -/
def Instr.mnemonic : Instr → String
  | .bxLoad _ => "bx.load"
  | .bxPull => "bx.pull"
  | .bxStat => "bx.stat"
  | .srLoad _ _ => "sr.load"
  | .srPull => "sr.pull"
  | .srStat => "sr.stat"
  | .oscSetamp _ => "osc.setamp"
  | .oscSetoffi _ => "osc.setoffi"
  | .oscSetoffq _ => "osc.setoffq"
  | .oscSetcoeff _ => "osc.setcoeff"
  | .oscSetphase _ => "osc.setphase"
  | .oscSetfreq _ => "osc.setfreq"
  | .oscRdamp => "osc.rdamp"
  | .oscRdoffi => "osc.rdoffi"
  | .oscRdoffq => "osc.rdoffq"
  | .oscRdcoeff => "osc.rdcoeff"
  | .oscRdphase => "osc.rdphase"
  | .oscRdfreq => "osc.rdfreq"
  | .oscRdstat => "osc.rdstat"
  | .oscProcess _ _ _ => "osc.process"

/-- A row of the opcode map (R76). -/
structure OpcodeRow where
  mnemonic : String
  bits : Word
  mask : Word
  deriving DecidableEq, Repr

/-- "A word `c` is the instruction when `c AND mask = match`" (R76). -/
def OpcodeRow.matches (r : OpcodeRow) (c : Word) : Bool := c &&& r.mask == r.bits

/-- The word whose `n` lowest bits are 0 and whose other bits are 1. -/
def maskFrom (n : Nat) : Word := BitVec.allOnes 64 <<< n

/-- The opcode map of R76, with the masks R78's reserved bits give in the build. -/
def opcodeMap (b : Build) : List OpcodeRow :=
  [ ⟨"bx.load", 0x1000000000000000, maskFrom b.w⟩,
    ⟨"bx.pull", 0x1100000000000000, maskFrom 0⟩,
    ⟨"bx.stat", 0x1200000000000000, maskFrom 0⟩,
    ⟨"sr.load", 0x2000000000000000, (maskFrom (32 + b.nw)) ||| (maskFrom b.tw &&& 0x00000000FFFFFFFF)⟩,
    ⟨"sr.pull", 0x2100000000000000, maskFrom 0⟩,
    ⟨"sr.stat", 0x2200000000000000, maskFrom 0⟩,
    ⟨"osc.setamp", 0x3000000000000000, maskFrom 16⟩,
    ⟨"osc.setoffi", 0x3000000100000000, maskFrom 16⟩,
    ⟨"osc.setoffq", 0x3000000200000000, maskFrom 16⟩,
    ⟨"osc.setcoeff", 0x3000000300000000, maskFrom 32⟩,
    ⟨"osc.setphase", 0x3000000400000000, maskFrom 32⟩,
    ⟨"osc.setfreq", 0x3000000500000000, maskFrom 32⟩ ] ++
  [ ⟨"osc.rdamp", 0x3100000000000000, maskFrom 0⟩,
    ⟨"osc.rdoffi", 0x3100000100000000, maskFrom 0⟩,
    ⟨"osc.rdoffq", 0x3100000200000000, maskFrom 0⟩,
    ⟨"osc.rdcoeff", 0x3100000300000000, maskFrom 0⟩,
    ⟨"osc.rdphase", 0x3100000400000000, maskFrom 0⟩,
    ⟨"osc.rdfreq", 0x3100000500000000, maskFrom 0⟩,
    ⟨"osc.rdstat", 0x3100000600000000, maskFrom 0⟩,
    ⟨"osc.process", 0x4000000000000000, maskFrom 33⟩ ]

/-- The table of R76 as the spec prints it, for the default parameters (spec/opcode_table.json). -/
def opcodeTable : List OpcodeRow :=
  [ ⟨"bx.load", 0x1000000000000000, 0xFFFFFFFFFFFFFF00⟩,
    ⟨"bx.pull", 0x1100000000000000, 0xFFFFFFFFFFFFFFFF⟩,
    ⟨"bx.stat", 0x1200000000000000, 0xFFFFFFFFFFFFFFFF⟩,
    ⟨"sr.load", 0x2000000000000000, 0xFFFF0000FFFFFF00⟩,
    ⟨"sr.pull", 0x2100000000000000, 0xFFFFFFFFFFFFFFFF⟩,
    ⟨"sr.stat", 0x2200000000000000, 0xFFFFFFFFFFFFFFFF⟩,
    ⟨"osc.setamp", 0x3000000000000000, 0xFFFFFFFFFFFF0000⟩,
    ⟨"osc.setoffi", 0x3000000100000000, 0xFFFFFFFFFFFF0000⟩,
    ⟨"osc.setoffq", 0x3000000200000000, 0xFFFFFFFFFFFF0000⟩,
    ⟨"osc.setcoeff", 0x3000000300000000, 0xFFFFFFFF00000000⟩ ] ++
  [ ⟨"osc.setphase", 0x3000000400000000, 0xFFFFFFFF00000000⟩,
    ⟨"osc.setfreq", 0x3000000500000000, 0xFFFFFFFF00000000⟩,
    ⟨"osc.rdamp", 0x3100000000000000, 0xFFFFFFFFFFFFFFFF⟩,
    ⟨"osc.rdoffi", 0x3100000100000000, 0xFFFFFFFFFFFFFFFF⟩,
    ⟨"osc.rdoffq", 0x3100000200000000, 0xFFFFFFFFFFFFFFFF⟩,
    ⟨"osc.rdcoeff", 0x3100000300000000, 0xFFFFFFFFFFFFFFFF⟩,
    ⟨"osc.rdphase", 0x3100000400000000, 0xFFFFFFFFFFFFFFFF⟩,
    ⟨"osc.rdfreq", 0x3100000500000000, 0xFFFFFFFFFFFFFFFF⟩,
    ⟨"osc.rdstat", 0x3100000600000000, 0xFFFFFFFFFFFFFFFF⟩,
    ⟨"osc.process", 0x4000000000000000, 0xFFFFFFFE00000000⟩ ]

/-- The little-endian byte view of a pattern of `k` bytes: byte `i` is `v[8i+7:8i]` (R59). -/
def byteView (k : Nat) (v : BitVec (8 * k)) : List Byte :=
  (List.range k).map fun i => v.extractLsb' (8 * i) 8

/-- The pattern whose little-endian byte view is the list (R59). -/
def ofByteView : (bytes : List Byte) → Nat
  | [] => 0
  | b :: rest => b.toNat + 256 * ofByteView rest

/-- The decoder on a word given as its eight bytes, lowest byte first (R59, R71: "The length of a command is always 64
bits"); any other number of bytes is no command. -/
def decodeBytes (b : Build) (bytes : List Byte) : Option Instr :=
  if bytes.length = 8 then decode b (BitVec.ofNat 64 (ofByteView bytes)) else none

/-- The host's probe: the command the decoder reads from a table row's word, in the build of R7's defaults (log entry 22, DESIGN CHOICE). -/
def decodeTableWord (nbits w : Nat) : Option Instr :=
  decodeBytes Build.standard (byteView 8 (BitVec.ofNat 64 (w % 2 ^ nbits)))

end Sys2Proof
end

