-- ==== Sys2Proof/Machine/State.lean ====
section
/-! DEFINITION. The state of paosc-1 (10_state.md R22), of its two ports (30_encoding.md R70) and of the host that drives it (20_memory.md R55, 70_reset_and_hazards.md R220, R230), as plain data; and the machine right after reset. -/

namespace Sys2Proof.Machine

/-- A window memory (R50 to R52): its written entries as (index, entry) pairs, the indices strictly rising. An index that
is not listed is an UNWRITTEN entry (R40, R56): it holds no value the model may use (R57). -/
abbrev Memory (α : Type) := List (Nat × α)

/-- BX, the bit cursor (R23, R24). -/
structure Bx where
  /-- BX_ACC, `W` bits, held in the low end of 32 bits (log entry 3, DESIGN CHOICE). -/
  acc : BitVec 32
  /-- BX_REM, 6 bits. -/
  rem : BitVec 6
  deriving DecidableEq, Repr

/-- SR, the repeat cursor (R26, R27). -/
structure Sr where
  /-- SR_VAL, `TW` bits, held in the low end of 32 bits (log entry 3, DESIGN CHOICE). -/
  val : BitVec 32
  /-- SR_CNT, `NW` bits, held in the low end of 24 bits (log entry 3, DESIGN CHOICE). -/
  cnt : BitVec 24
  deriving DecidableEq, Repr

/-- OSC's registers and flags (R28 to R35). -/
structure Osc where
  /-- OSC_PHASE (R28). -/
  phase : Phase
  /-- OSC_FREQ (R29, R30). -/
  freq : Freq
  /-- OSC_AMP (R31). -/
  amp : Q214
  /-- OSC_OFFI (R32). -/
  offi : Q214
  /-- OSC_OFFQ (R32). -/
  offq : Q214
  /-- OSC_COEFF (R33). -/
  coeff : Freq
  /-- OSC_STARTED (R34). -/
  started : Bool
  /-- OSC_FINISHED (R35). -/
  finished : Bool
  deriving DecidableEq, Repr

/-- What the host can do to the block: the four window operations of R55, writing a command word to the command port
(R70), and driving the input `rst` (R220). -/
inductive HostOp where
  | writeIn (a : Index) (v : Q214)
  | readIn (a : Index)
  | writeOut (a : Index) (v : Quad)
  | readOut (a : Index)
  | command (c : Word)
  | rst
  deriving DecidableEq, Repr

/-- One entry of the host's plan (log entry 4, DESIGN CHOICE): act, or wait, which gives the block its turn to answer an outstanding command. -/
inductive HostTurn where
  | wait
  | act (op : HostOp)
  deriving DecidableEq, Repr

/-- What the host has got from the block: a word on the response port (R70), or what a window read returned (R55). -/
inductive Observation where
  | response (r : Word)
  | inEntry (a : Index) (v : Q214)
  | outEntry (a : Index) (v : Quad)
  deriving DecidableEq, Repr

/-- The status codes of R75. -/
inductive Status where
  | ok
  | illegalCommand
  | illegalState
  | windowRange
  deriving DecidableEq, Repr

/-- The machine. `bx`, `sr`, `osc`, `inWin` and `outWin` are the architectural state of R22; `build` is the build's
configuration, which nothing changes (R7, log entry 1, DESIGN CHOICE); the other fields are the ports and the host. -/
structure State where
  /-- The build parameters `W`, `TW`, `NW`, `DEPTH`, `PTS` (R7): not state of the block, never changed. -/
  build : Build
  /-- BX_ACC and BX_REM. -/
  bx : Bx
  /-- SR_VAL and SR_CNT. -/
  sr : Sr
  /-- The OSC registers and flags. -/
  osc : Osc
  /-- The IN window (R51). -/
  inWin : Memory Q214
  /-- The OUT window (R52). -/
  outWin : Memory Quad
  /-- The command port: the outstanding command word, if there is one (R70). -/
  cmdPort : Option Word
  /-- What the host does next, in order (log entry 4, DESIGN CHOICE). The model's own field. -/
  host : List HostTurn
  /-- What the host has got so far, oldest first: the response stream of R70 and the values of window reads (log entry 5, DESIGN CHOICE). -/
  seen : List Observation
  /-- How many reads of unwritten entries the host has made; each one takes a fresh free value (R57, log entry 6, DESIGN CHOICE). The model's own field. -/
  draws : Nat
  deriving DecidableEq, Repr

/-- Faults of the model. -/
inductive Fault where
  /-- `UNINIT_IN(k)` (R57, R201). Raised by `osc.process` when it would read IN entry `k` and that entry is unwritten. SAFE:
  the hardware goes on with an unspecified value. -/
  | uninitIn (k : Nat)
  deriving DecidableEq, Repr

/-- Moves the model does not give. -/
inductive Refusal where
  /-- Raised by an arm of `exec` for a command without a meaning; no arm is one. SAFE: the machine stops. -/
  | notModelled (mnemonic : String)
  /-- `HOST_INDEX(a)` (R58, R201). Raised by a host window operation with `a >= DEPTH`. SAFE: "outside the host's duties". -/
  | hostIndex (a : Nat)
  /-- `HOST_OVERLAP` (R201, R230). Raised by a host command or window operation while a command is outstanding. SAFE:
  "A model gives such an overlapping action no move". -/
  | hostOverlap
  deriving DecidableEq, Repr

/-- BX after reset (R22): exhausted. -/
def Bx.reset : Bx := { acc := 0, rem := 0 }

/-- SR after reset (R22): exhausted. -/
def Sr.reset : Sr := { val := 0, cnt := 0 }

/-- OSC after reset (R22): amplitude 1.0, everything else 0. -/
def Osc.reset : Osc :=
  { phase := 0, freq := 0, amp := 0x4000, offi := 0, offq := 0, coeff := 0, started := false, finished := false }

/-- The machine right after reset (R22, R220), in the build of R7's defaults: every window entry unwritten, no command
outstanding (R222), and a host that has planned nothing and got nothing yet (log entry 9, DESIGN CHOICE). -/
def State.reset : State :=
  { build := Build.standard, bx := Bx.reset, sr := Sr.reset, osc := Osc.reset, inWin := [], outWin := [],
    cmdPort := none, host := [], seen := [], draws := 0 }

end Sys2Proof.Machine
end

