-- ==== Sys2Proof/Machine/Operands.lean ====
section
/-! DEFINITION. The integer views and operators of 00_scope.md R10, and the oscillator's arithmetic over them (42_oscillator.md R141 to R143). -/

namespace Sys2Proof.Machine

/-- `low_N(x)`: the `N`-bit pattern of the integer `x` modulo 2^N (R10). -/
def low (n : Nat) (x : Int) : BitVec n := BitVec.ofInt n x

/-- `low_k(x)` in a wider container: the `k` low bits of `x`, zero above (R10; the `W`-, `TW`- and `NW`-bit registers, log entry 3, DESIGN CHOICE). -/
def lowBits (n k : Nat) (x : Nat) : BitVec n := BitVec.ofNat n (x % 2 ^ k)

/-- `zext_N(v)` (R10). -/
def zext {k : Nat} (n : Nat) (v : BitVec k) : BitVec n := BitVec.ofNat n v.toNat

/-- `asr(x, s) = floor(x / 2^s)` (R10): the divisor is positive, so `Int`'s division rounds toward minus infinity. -/
def asr (x : Int) (s : Nat) : Int := x / 2 ^ s

/-- `sat16(x)` (R10). -/
def sat16 (x : Int) : Int := if x < -32768 then -32768 else if 32767 < x then 32767 else x

/-- `FreqOf(c, k)` (R142). -/
def freqOf (c : Q214) (k : Freq) : Freq := low 32 (asr (c.toInt * k.toInt) 14)

/-- One lane of `OutOf` (R143): the product rounded down, then the offset added exactly, then saturation. -/
def outLane (s amp off : Q214) : Q214 := low 16 (sat16 (asr (s.toInt * amp.toInt) 14 + off.toInt))

/-- `OutOf(s, amp, offi, offq) = {Q, I}` (R143, R53). -/
def outOf (s : Q214 × Q214) (amp offi offq : Q214) : Quad := outLane s.2 amp offq ++ outLane s.1 amp offi

/-- `low_32(uint(OSC_PHASE) + uint(OSC_FREQ))`: one step of the accumulator, modulo one cycle (R160 step 5). -/
def phaseStep (p : Phase) (f : Freq) : Phase := low 32 (p.toNat + f.toNat)

end Sys2Proof.Machine
end

