-- ==== Sys2Proof/Machine/Ops.lean ====
section
/-! DEFINITION. The window memories (20_memory.md R50 to R57), the response word (30_encoding.md R74, R75), and the one way a command answers, with status OK or with an error (60_exceptions.md R190 to R193). -/

namespace Sys2Proof.Machine

/-- The canonical form of a window: indices strictly rising. An unlisted index reads as no value, so no listed entry can
equal what an unlisted one reads as. -/
abbrev Memory.wf {α : Type} (m : Memory α) : Prop := (m.map Prod.fst).Pairwise (· < ·)

/-- Every listed index exists in a window of `depth` entries (R50). -/
abbrev Memory.within {α : Type} (depth : Nat) (m : Memory α) : Prop := ∀ e ∈ m, e.1 < depth

/-- `MemRead` (R11): the entry at index `k`, or `none` where nothing has been written since reset (R40). -/
def Memory.read {α : Type} (m : Memory α) (k : Nat) : Option α :=
  match m with
  | [] => none
  | (j, v) :: rest => if j = k then some v else Memory.read rest k

/-- `MemWrite` (R11): entry `k` becomes `v`; the list stays sorted. -/
def Memory.write {α : Type} (m : Memory α) (k : Nat) (v : α) : Memory α :=
  match m with
  | [] => [(k, v)]
  | (j, u) :: rest =>
    if k < j then (k, v) :: (j, u) :: rest
    else if k = j then (k, v) :: rest
    else (j, u) :: Memory.write rest k v

/-- The STATUS field's value of each status (R75). -/
def Status.code : Status → BitVec 8
  | .ok => 0x00
  | .illegalCommand => 0x01
  | .illegalState => 0x02
  | .windowRange => 0x03

/-- `respond(status, aux, data)`: the response word `{STATUS, AUX, DATA}` (R11, R74). -/
def respond (st : Status) (aux : BitVec 24) (data : BitVec 32) : Word := st.code ++ aux ++ data

/-- The block writes its response: it joins the response stream, and the command is outstanding no more (R70). -/
def State.answer (s : State) (st : Status) (aux : BitVec 24) (data : BitVec 32) : State :=
  { s with cmdPort := none, seen := s.seen ++ [.response (respond st aux data)] }

/-- `raise <Status>` (R11, R191): AUX and DATA are 0 and no architectural state changes. This is all the error
handling the block has; there is no trap entry and no return from one (R193, R196, R197). -/
def State.raise (s : State) (st : Status) : State := s.answer st 0 0

end Sys2Proof.Machine
end

