-- ==== Sys2Proof/Machine/Bx.lean ====
section
/-! DEFINITION. The meanings of `bx.load`, `bx.pull` and `bx.stat` (40_bit_expander.md). -/

namespace Sys2Proof.Machine

/-- `bx.load v` (R101, R102): accepted in every state; what was left of the previous sequence is discarded. -/
def execBxLoad (v : BitVec 32) (s : State) : Host.Outcome State Fault Refusal :=
  .next ({ s with bx := { acc := lowBits 32 s.build.w v.toNat, rem := BitVec.ofNat 6 s.build.w } }.answer .ok 0 0)

/-- `bx.pull` (R103): the bit BX_ACC[W-1] with VALID = 1, or VALID = 0 and no change when BX_REM = 0. -/
def execBxPull (s : State) : Host.Outcome State Fault Refusal :=
  if s.bx.rem.toNat = 0 then .next (s.answer .ok 0 0)
  else
    let bit := s.bx.acc.getLsbD (s.build.w - 1)
    let bx := { acc := lowBits 32 s.build.w (s.bx.acc.toNat * 2), rem := s.bx.rem - 1 }
    .next ({ s with bx := bx }.answer .ok 1 (if bit then 1 else 0))

/-- `bx.stat` (R105). -/
def execBxStat (s : State) : Host.Outcome State Fault Refusal :=
  .next (s.answer .ok (zext 24 s.bx.rem) s.bx.acc)

end Sys2Proof.Machine
end

