-- ==== Sys2Proof/Machine/Flags.lean ====
section
/-! DEFINITION. The block's only flags, OSC_STARTED and OSC_FINISHED (10_state.md R34, R35, R37, R38): the lock one puts on the configuration, and the condition that sets the other. -/

namespace Sys2Proof.Machine

/-- The termination condition of R161: `eoi == 1 and n == ni and n < no`. -/
def terminates (ni no : BitVec 16) (eoi : Bool) : Bool :=
  let n := min ni.toNat no.toNat
  eoi && n == ni.toNat && decide (n < no.toNat)

/-- The flags after an accepted `osc.process` (R160): OSC_STARTED set, OSC_FINISHED set or kept. -/
def Osc.afterProcess (o : Osc) (ni no : BitVec 16) (eoi : Bool) : Osc :=
  { o with started := true, finished := o.finished || terminates ni no eoi }

/-- A flag as a one-bit response field: 1 or 0 in the low bit (R74). -/
def flagBits (n : Nat) (f : Bool) : BitVec n := if f then 1 else 0

/-- The OSC_STATUS view: bit 0 is OSC_STARTED, bit 1 is OSC_FINISHED, the rest read 0 (R37, R159). -/
def Osc.status (o : Osc) : BitVec 32 := flagBits 32 o.finished <<< 1 ||| flagBits 32 o.started

/-- The configuration lock (R145): a write while OSC_STARTED = 1 is refused with ILLEGAL_STATE, otherwise it is done. -/
def configWrite (s : State) (o : Osc) : State :=
  if s.osc.started then s.raise .illegalState else { s with osc := o }.answer .ok 0 0

end Sys2Proof.Machine
end

