-- ==== Sys2Proof/Machine/OscConfig.lean ====
section
/-! DEFINITION. The meanings of the configuration writes `osc.set*` and of the reads `osc.rd*` (42_oscillator.md sections 3 and 4). -/

namespace Sys2Proof.Machine

/-- `osc.setamp v` (R145, R146). -/
def execOscSetamp (v : Q214) (s : State) : Host.Outcome State Fault Refusal :=
  .next (configWrite s { s.osc with amp := v })

/-- `osc.setoffi v` (R145, R147). -/
def execOscSetoffi (v : Q214) (s : State) : Host.Outcome State Fault Refusal :=
  .next (configWrite s { s.osc with offi := v })

/-- `osc.setoffq v` (R145, R148). -/
def execOscSetoffq (v : Q214) (s : State) : Host.Outcome State Fault Refusal :=
  .next (configWrite s { s.osc with offq := v })

/-- `osc.setcoeff v` (R145, R149). -/
def execOscSetcoeff (v : Freq) (s : State) : Host.Outcome State Fault Refusal :=
  .next (configWrite s { s.osc with coeff := v })

/-- `osc.setphase v` (R145, R150). -/
def execOscSetphase (v : Phase) (s : State) : Host.Outcome State Fault Refusal :=
  .next (configWrite s { s.osc with phase := v })

/-- `osc.setfreq v` (R145, R151). OSC_PHASE does not move (R30). -/
def execOscSetfreq (v : Freq) (s : State) : Host.Outcome State Fault Refusal :=
  .next (configWrite s { s.osc with freq := v })

/-- `osc.rdamp` (R153): zero-extended, as every narrow register reads (R73). -/
def execOscRdamp (s : State) : Host.Outcome State Fault Refusal := .next (s.answer .ok 0 (zext 32 s.osc.amp))

/-- `osc.rdoffi` (R154). -/
def execOscRdoffi (s : State) : Host.Outcome State Fault Refusal := .next (s.answer .ok 0 (zext 32 s.osc.offi))

/-- `osc.rdoffq` (R155). -/
def execOscRdoffq (s : State) : Host.Outcome State Fault Refusal := .next (s.answer .ok 0 (zext 32 s.osc.offq))

/-- `osc.rdcoeff` (R156). -/
def execOscRdcoeff (s : State) : Host.Outcome State Fault Refusal := .next (s.answer .ok 0 s.osc.coeff)

/-- `osc.rdphase` (R157). -/
def execOscRdphase (s : State) : Host.Outcome State Fault Refusal := .next (s.answer .ok 0 s.osc.phase)

/-- `osc.rdfreq` (R158). -/
def execOscRdfreq (s : State) : Host.Outcome State Fault Refusal := .next (s.answer .ok 0 s.osc.freq)

/-- `osc.rdstat` (R159, R37). -/
def execOscRdstat (s : State) : Host.Outcome State Fault Refusal := .next (s.answer .ok 0 s.osc.status)

end Sys2Proof.Machine
end

