-- ==== Sys2Proof/Machine/Pts.lean ====
section
/-! DEFINITION. The phase-to-sample function of a build (42_oscillator.md R144, R171; 00_scope.md R7 and R167 for any other). -/

namespace Sys2Proof.Machine

/-- Rows 0 to 240 of R171's table. -/
def cosRowsA : List (List Nat) :=
  [ [16384, 16384, 16384, 16384, 16384, 16384, 16383, 16383, 16383, 16382, 16382, 16382, 16381, 16381, 16380, 16380],
    [16379, 16378, 16378, 16377, 16376, 16375, 16375, 16374, 16373, 16372, 16371, 16370, 16369, 16368, 16367, 16365],
    [16364, 16363, 16362, 16360, 16359, 16358, 16356, 16355, 16353, 16352, 16350, 16348, 16347, 16345, 16343, 16341],
    [16340, 16338, 16336, 16334, 16332, 16330, 16328, 16326, 16324, 16321, 16319, 16317, 16315, 16312, 16310, 16308],
    [16305, 16303, 16300, 16298, 16295, 16292, 16290, 16287, 16284, 16281, 16279, 16276, 16273, 16270, 16267, 16264],
    [16261, 16258, 16255, 16251, 16248, 16245, 16242, 16238, 16235, 16232, 16228, 16225, 16221, 16218, 16214, 16210],
    [16207, 16203, 16199, 16195, 16192, 16188, 16184, 16180, 16176, 16172, 16168, 16164, 16160, 16156, 16151, 16147],
    [16143, 16138, 16134, 16130, 16125, 16121, 16116, 16112, 16107, 16103, 16098, 16093, 16088, 16084, 16079, 16074],
    [16069, 16064, 16059, 16054, 16049, 16044, 16039, 16034, 16029, 16024, 16018, 16013, 16008, 16002, 15997, 15991],
    [15986, 15980, 15975, 15969, 15964, 15958, 15952, 15946, 15941, 15935, 15929, 15923, 15917, 15911, 15905, 15899],
    [15893, 15887, 15881, 15875, 15868, 15862, 15856, 15849, 15843, 15837, 15830, 15824, 15817, 15810, 15804, 15797],
    [15791, 15784, 15777, 15770, 15763, 15757, 15750, 15743, 15736, 15729, 15722, 15715, 15707, 15700, 15693, 15686],
    [15679, 15671, 15664, 15656, 15649, 15642, 15634, 15627, 15619, 15611, 15604, 15596, 15588, 15581, 15573, 15565],
    [15557, 15549, 15541, 15533, 15525, 15517, 15509, 15501, 15493, 15485, 15476, 15468, 15460, 15451, 15443, 15435],
    [15426, 15418, 15409, 15401, 15392, 15383, 15375, 15366, 15357, 15349, 15340, 15331, 15322, 15313, 15304, 15295],
    [15286, 15277, 15268, 15259, 15250, 15240, 15231, 15222, 15213, 15203, 15194, 15184, 15175, 15166, 15156, 15146] ]

/-- Rows 256 to 496 of R171's table. -/
def cosRowsB : List (List Nat) :=
  [ [15137, 15127, 15118, 15108, 15098, 15088, 15078, 15069, 15059, 15049, 15039, 15029, 15019, 15009, 14999, 14989],
    [14978, 14968, 14958, 14948, 14937, 14927, 14917, 14906, 14896, 14885, 14875, 14864, 14854, 14843, 14832, 14822],
    [14811, 14800, 14789, 14779, 14768, 14757, 14746, 14735, 14724, 14713, 14702, 14691, 14680, 14668, 14657, 14646],
    [14635, 14623, 14612, 14601, 14589, 14578, 14566, 14555, 14543, 14531, 14520, 14508, 14497, 14485, 14473, 14461],
    [14449, 14438, 14426, 14414, 14402, 14390, 14378, 14366, 14354, 14341, 14329, 14317, 14305, 14293, 14280, 14268],
    [14256, 14243, 14231, 14218, 14206, 14193, 14181, 14168, 14155, 14143, 14130, 14117, 14104, 14092, 14079, 14066],
    [14053, 14040, 14027, 14014, 14001, 13988, 13975, 13962, 13949, 13935, 13922, 13909, 13896, 13882, 13869, 13856],
    [13842, 13829, 13815, 13802, 13788, 13774, 13761, 13747, 13733, 13720, 13706, 13692, 13678, 13665, 13651, 13637],
    [13623, 13609, 13595, 13581, 13567, 13553, 13538, 13524, 13510, 13496, 13482, 13467, 13453, 13439, 13424, 13410],
    [13395, 13381, 13366, 13352, 13337, 13323, 13308, 13293, 13279, 13264, 13249, 13234, 13219, 13205, 13190, 13175],
    [13160, 13145, 13130, 13115, 13100, 13085, 13069, 13054, 13039, 13024, 13008, 12993, 12978, 12963, 12947, 12932],
    [12916, 12901, 12885, 12870, 12854, 12839, 12823, 12807, 12792, 12776, 12760, 12744, 12729, 12713, 12697, 12681],
    [12665, 12649, 12633, 12617, 12601, 12585, 12569, 12553, 12537, 12520, 12504, 12488, 12472, 12455, 12439, 12423],
    [12406, 12390, 12373, 12357, 12340, 12324, 12307, 12290, 12274, 12257, 12240, 12224, 12207, 12190, 12173, 12157],
    [12140, 12123, 12106, 12089, 12072, 12055, 12038, 12021, 12004, 11987, 11970, 11952, 11935, 11918, 11901, 11883],
    [11866, 11849, 11831, 11814, 11797, 11779, 11762, 11744, 11727, 11709, 11691, 11674, 11656, 11638, 11621, 11603] ]

/-- Rows 512 to 752 of R171's table. -/
def cosRowsC : List (List Nat) :=
  [ [11585, 11567, 11550, 11532, 11514, 11496, 11478, 11460, 11442, 11424, 11406, 11388, 11370, 11352, 11334, 11316],
    [11297, 11279, 11261, 11243, 11224, 11206, 11188, 11169, 11151, 11133, 11114, 11096, 11077, 11059, 11040, 11021],
    [11003, 10984, 10966, 10947, 10928, 10909, 10891, 10872, 10853, 10834, 10815, 10796, 10778, 10759, 10740, 10721],
    [10702, 10683, 10663, 10644, 10625, 10606, 10587, 10568, 10549, 10529, 10510, 10491, 10471, 10452, 10433, 10413],
    [10394, 10374, 10355, 10336, 10316, 10296, 10277, 10257, 10238, 10218, 10198, 10179, 10159, 10139, 10120, 10100],
    [10080, 10060, 10040, 10020, 10001, 9981, 9961, 9941, 9921, 9901, 9881, 9861, 9841, 9820, 9800, 9780],
    [9760, 9740, 9720, 9699, 9679, 9659, 9638, 9618, 9598, 9577, 9557, 9537, 9516, 9496, 9475, 9455],
    [9434, 9413, 9393, 9372, 9352, 9331, 9310, 9290, 9269, 9248, 9227, 9207, 9186, 9165, 9144, 9123],
    [9102, 9082, 9061, 9040, 9019, 8998, 8977, 8956, 8935, 8914, 8892, 8871, 8850, 8829, 8808, 8787],
    [8765, 8744, 8723, 8702, 8680, 8659, 8638, 8616, 8595, 8573, 8552, 8531, 8509, 8488, 8466, 8445],
    [8423, 8401, 8380, 8358, 8337, 8315, 8293, 8272, 8250, 8228, 8207, 8185, 8163, 8141, 8119, 8098],
    [8076, 8054, 8032, 8010, 7988, 7966, 7944, 7922, 7900, 7878, 7856, 7834, 7812, 7790, 7768, 7746],
    [7723, 7701, 7679, 7657, 7635, 7612, 7590, 7568, 7545, 7523, 7501, 7478, 7456, 7434, 7411, 7389],
    [7366, 7344, 7321, 7299, 7276, 7254, 7231, 7209, 7186, 7164, 7141, 7118, 7096, 7073, 7050, 7028],
    [7005, 6982, 6960, 6937, 6914, 6891, 6868, 6846, 6823, 6800, 6777, 6754, 6731, 6708, 6685, 6662],
    [6639, 6616, 6593, 6570, 6547, 6524, 6501, 6478, 6455, 6432, 6409, 6386, 6363, 6339, 6316, 6293] ]

/-- Rows 768 to 1024 of R171's table. -/
def cosRowsD : List (List Nat) :=
  [ [6270, 6247, 6223, 6200, 6177, 6154, 6130, 6107, 6084, 6060, 6037, 6014, 5990, 5967, 5943, 5920],
    [5897, 5873, 5850, 5826, 5803, 5779, 5756, 5732, 5708, 5685, 5661, 5638, 5614, 5591, 5567, 5543],
    [5520, 5496, 5472, 5449, 5425, 5401, 5377, 5354, 5330, 5306, 5282, 5259, 5235, 5211, 5187, 5163],
    [5139, 5115, 5092, 5068, 5044, 5020, 4996, 4972, 4948, 4924, 4900, 4876, 4852, 4828, 4804, 4780],
    [4756, 4732, 4708, 4684, 4660, 4636, 4612, 4587, 4563, 4539, 4515, 4491, 4467, 4442, 4418, 4394],
    [4370, 4346, 4321, 4297, 4273, 4249, 4224, 4200, 4176, 4151, 4127, 4103, 4078, 4054, 4030, 4005],
    [3981, 3957, 3932, 3908, 3883, 3859, 3835, 3810, 3786, 3761, 3737, 3712, 3688, 3663, 3639, 3614],
    [3590, 3565, 3541, 3516, 3492, 3467, 3442, 3418, 3393, 3369, 3344, 3320, 3295, 3270, 3246, 3221],
    [3196, 3172, 3147, 3122, 3098, 3073, 3048, 3024, 2999, 2974, 2949, 2925, 2900, 2875, 2851, 2826],
    [2801, 2776, 2752, 2727, 2702, 2677, 2652, 2628, 2603, 2578, 2553, 2528, 2503, 2479, 2454, 2429],
    [2404, 2379, 2354, 2329, 2305, 2280, 2255, 2230, 2205, 2180, 2155, 2130, 2105, 2080, 2055, 2031],
    [2006, 1981, 1956, 1931, 1906, 1881, 1856, 1831, 1806, 1781, 1756, 1731, 1706, 1681, 1656, 1631],
    [1606, 1581, 1556, 1531, 1506, 1481, 1456, 1431, 1406, 1381, 1356, 1331, 1306, 1280, 1255, 1230],
    [1205, 1180, 1155, 1130, 1105, 1080, 1055, 1030, 1005, 980, 955, 929, 904, 879, 854, 829],
    [804, 779, 754, 729, 704, 678, 653, 628, 603, 578, 553, 528, 503, 477, 452, 427],
    [402, 377, 352, 327, 302, 276, 251, 226, 201, 176, 151, 126, 101, 75, 50, 25],
    [0] ]

/-- R171's table, row by row: row `r` holds `T[16r] .. T[16r+15]`. -/
def cosRows : List (List Nat) := cosRowsA ++ (cosRowsB ++ (cosRowsC ++ cosRowsD))

/-- `T[m] = round(16384 × cos(2π m / 4096))` for `m` in 0..1024 (R171). -/
def cosTable (m : Nat) : Int := ((cosRows.getD (m / 16) []).getD (m % 16) 0 : Nat)

/-- `(sI, sQ)` as integers, for the 12-bit index `j` (R171's table of the four quarters, `q = j[11:10]`, `r = j[9:0]`). -/
def quadratureAt (j : Nat) : Int × Int :=
  let r := j % 1024
  match j / 1024 with
  | 0 => (cosTable r, cosTable (1024 - r))
  | 1 => (-cosTable (1024 - r), cosTable r)
  | 2 => (-cosTable r, -cosTable (1024 - r))
  | _ => (cosTable (1024 - r), -cosTable r)

/-- `PTS_default(p)`: the phase is truncated to its 12 upper bits (R144). -/
def ptsDefault (p : Phase) : Q214 × Q214 :=
  let s := quadratureAt (p.extractLsb' 20 12).toNat
  (low 16 s.1, low 16 s.2)

/-- The number of a table's entry for a phase: its `bits` upper bits, `uint(p[31:32-bits])`. -/
def tableIndex (bits : Nat) (p : Phase) : Nat := p.toNat / 2 ^ (32 - bits)

/-- A table read at a phase. In a table that is total every phase has its entry; what a short table gives is no build's (log entry
15, DESIGN CHOICE). -/
def ptsTable (bits : Nat) (entries : List (Q214 × Q214)) (p : Phase) : Q214 × Q214 :=
  entries.getD (tableIndex bits p) (0, 0)

/-- `PTS` of the build (R7, R144, R167). -/
def pts (choice : PtsChoice) (p : Phase) : Q214 × Q214 :=
  match choice with
  | .quadrature => ptsDefault p
  | .table bits entries => ptsTable bits entries p
  | .other id => Config.otherPts id p

end Sys2Proof.Machine
end

