-- ==== Sys2Proof/Machine/OscProcess.lean ====
section
/-! DEFINITION. The meaning of `osc.process` (42_oscillator.md section 5). -/

namespace Sys2Proof.Machine

/-- The entry the current phase gives: `OutOf(PTS(OSC_PHASE), OSC_AMP, OSC_OFFI, OSC_OFFQ)` (R160 steps 1 and 2). -/
def outEntryNow (s : State) : Quad := outOf (pts s.build.pts s.osc.phase) s.osc.amp s.osc.offi s.osc.offq

/-- OSC_FREQ and OSC_PHASE after control sample `c` (R160 steps 4 and 5): the frequency is replaced, then the phase steps by it. -/
def Osc.afterSample (o : Osc) (c : Q214) : Osc :=
  { o with freq := freqOf c o.coeff, phase := phaseStep o.phase (freqOf c o.coeff) }

/-- One turn `k` of R160's loop, its five steps in their order. Step 3 on an unwritten entry is `UNINIT_IN(k)` (R57). -/
def sampleStep (k : Nat) (s : State) : Host.Outcome State Fault Refusal :=
  let s1 := { s with outWin := s.outWin.write k (outEntryNow s) }
  match s1.inWin.read k with
  | none => .fault (.uninitIn k)
  | some c => .next { s1 with osc := s1.osc.afterSample c }

/-- `n` turns of the loop, the first with index `k`, in increasing order (R160, R63). -/
def sampleLoop (n k : Nat) (s : State) : Host.Outcome State Fault Refusal :=
  match n with
  | 0 => .next s
  | n + 1 =>
    match sampleStep k s with
    | .next t => sampleLoop n (k + 1) t
    | .fault f => .fault f
    | .refused r => .refused r

/-- The end of an accepted `osc.process` (R160): the flags, then the response with DONE, PRODUCED and CONSUMED (R74). -/
def finishProcess (ni no : BitVec 16) (eoi : Bool) (s : State) : State :=
  let osc := s.osc.afterProcess ni no eoi
  let n := low 16 (min ni.toNat no.toNat : Nat)
  { s with osc := osc }.answer .ok (flagBits 24 osc.finished) (n ++ n)

/-- `osc.process ni, no, eoi` (R160 to R162, R168 to R170). -/
def execOscProcess (ni no : BitVec 16) (eoi : Bool) (s : State) : Host.Outcome State Fault Refusal :=
  if s.build.depth < ni.toNat ∨ s.build.depth < no.toNat then .next (s.raise .windowRange)
  else
    match sampleLoop (min ni.toNat no.toNat) 0 s with
    | .next t => .next (finishProcess ni no eoi t)
    | .fault f => .fault f
    | .refused r => .refused r

end Sys2Proof.Machine
end

