-- ==== Sys2Proof/Machine/Sr.lean ====
section
/-! DEFINITION. The meanings of `sr.load`, `sr.pull` and `sr.stat` (41_symbol_repeater.md). -/

namespace Sys2Proof.Machine

/-- `sr.load v, n` (R121, R122): accepted in every state; what was left of the previous run is discarded. -/
def execSrLoad (v : BitVec 32) (n : BitVec 24) (s : State) : Host.Outcome State Fault Refusal :=
  .next ({ s with sr := { val := lowBits 32 s.build.tw v.toNat, cnt := lowBits 24 s.build.nw n.toNat } }.answer .ok 0 0)

/-- `sr.pull` (R123): SR_VAL with VALID = 1, or VALID = 0 and no change when SR_CNT = 0. -/
def execSrPull (s : State) : Host.Outcome State Fault Refusal :=
  if s.sr.cnt.toNat = 0 then .next (s.answer .ok 0 0)
  else .next ({ s with sr := { s.sr with cnt := s.sr.cnt - 1 } }.answer .ok 1 s.sr.val)

/-- `sr.stat` (R125). -/
def execSrStat (s : State) : Host.Outcome State Fault Refusal :=
  .next (s.answer .ok s.sr.cnt s.sr.val)

end Sys2Proof.Machine
end

