-- ==== Sys2Proof/Machine/Dispatch.lean ====
section
/-! DEFINITION. `Exec(S, c)` of 00_scope.md R12 on a decoded command: one arm a row of the opcode table. -/

namespace Sys2Proof.Machine

def exec (i : Instr) (s : State) : Host.Outcome State Fault Refusal :=
  match i with
  | .bxLoad v => Sys2Proof.Machine.execBxLoad v s
  | .bxPull => Sys2Proof.Machine.execBxPull s
  | .bxStat => Sys2Proof.Machine.execBxStat s
  | .srLoad v n => Sys2Proof.Machine.execSrLoad v n s
  | .srPull => Sys2Proof.Machine.execSrPull s
  | .srStat => Sys2Proof.Machine.execSrStat s
  | .oscSetamp v => Sys2Proof.Machine.execOscSetamp v s
  | .oscSetoffi v => Sys2Proof.Machine.execOscSetoffi v s
  | .oscSetoffq v => Sys2Proof.Machine.execOscSetoffq v s
  | .oscSetcoeff v => Sys2Proof.Machine.execOscSetcoeff v s
  | .oscSetphase v => Sys2Proof.Machine.execOscSetphase v s
  | .oscSetfreq v => Sys2Proof.Machine.execOscSetfreq v s
  | .oscRdamp => Sys2Proof.Machine.execOscRdamp s
  | .oscRdoffi => Sys2Proof.Machine.execOscRdoffi s
  | .oscRdoffq => Sys2Proof.Machine.execOscRdoffq s
  | .oscRdcoeff => Sys2Proof.Machine.execOscRdcoeff s
  | .oscRdphase => Sys2Proof.Machine.execOscRdphase s
  | .oscRdfreq => Sys2Proof.Machine.execOscRdfreq s
  | .oscRdstat => Sys2Proof.Machine.execOscRdstat s
  | .oscProcess ni no eoi => Sys2Proof.Machine.execOscProcess ni no eoi s

end Sys2Proof.Machine
end

