-- ==== Sys2Proof/Machine/CommandPort.lean ====
section
/-! DEFINITION. The block's turn: the word on the command port is decoded and executed, or answered ILLEGAL_COMMAND (00_scope.md R12, 30_encoding.md R70, R80). -/

namespace Sys2Proof.Machine

/-- `Exec(S, c)` on a command word (R12): a word that decodes runs; any other is answered ILLEGAL_COMMAND (R80). -/
def runWord (c : Word) (s : State) : Host.Outcome State Fault Refusal :=
  match decode s.build c with
  | some i => exec i s
  | none => .next (s.raise .illegalCommand)

/-- The block's turn: it executes the outstanding command, or idles and keeps all of its state (R206). -/
def serve (s : State) : Host.Outcome State Fault Refusal :=
  match s.cmdPort with
  | some c => runWord c s
  | none => .next s

end Sys2Proof.Machine
end

