-- ==== Sys2Proof/Machine/HostPort.lean ====
section
/-! DEFINITION. What the host does to the block: the window operations (20_memory.md R55 to R58), writing a command word (30_encoding.md R70), and `rst` (70_reset_and_hazards.md R220). -/

namespace Sys2Proof.Machine

/-- `rst` (R220): every register at its reset value, every window entry unwritten, and an outstanding command abandoned
without a response. The build stays, and so do the host's own plan and record (log entry 11, DEDUCED). -/
def State.resetBlock (s : State) : State :=
  { s with bx := Bx.reset, sr := Sr.reset, osc := Osc.reset, inWin := [], outWin := [], cmdPort := none }

/-- A read of IN: the entry, or for an unwritten one a fresh free value (R55, R57). It changes no entry. -/
def hostReadIn (a : Index) (s : State) : State :=
  match s.inWin.read a.toNat with
  | some v => { s with seen := s.seen ++ [.inEntry a v] }
  | none => { s with seen := s.seen ++ [.inEntry a (Config.unwrittenIn s.draws)], draws := s.draws + 1 }

/-- A read of OUT, likewise (R55, R57). -/
def hostReadOut (a : Index) (s : State) : State :=
  match s.outWin.read a.toNat with
  | some v => { s with seen := s.seen ++ [.outEntry a v] }
  | none => { s with seen := s.seen ++ [.outEntry a (Config.unwrittenOut s.draws)], draws := s.draws + 1 }

/-- A window operation on index `a` is refused at `a >= DEPTH` (R58). -/
def atIndex (a : Index) (s : State) (t : State) : Host.Outcome State Fault Refusal :=
  if a.toNat < s.build.depth then .next t else .refused (.hostIndex a.toNat)

/-- A host operation with no command outstanding. -/
def hostOpFree (op : HostOp) (s : State) : Host.Outcome State Fault Refusal :=
  match op with
  | .writeIn a v => atIndex a s { s with inWin := s.inWin.write a.toNat v }
  | .readIn a => atIndex a s (hostReadIn a s)
  | .writeOut a v => atIndex a s { s with outWin := s.outWin.write a.toNat v }
  | .readOut a => atIndex a s (hostReadOut a s)
  | .command c => .next { s with cmdPort := some c }
  | .rst => .next s.resetBlock

/-- A host operation: `rst` acts at any time (R220); every other one has no move while a command is outstanding (R230). -/
def hostAct (op : HostOp) (s : State) : Host.Outcome State Fault Refusal :=
  if s.cmdPort.isSome ∧ op ≠ .rst then .refused .hostOverlap else hostOpFree op s

end Sys2Proof.Machine
end

