-- ==== Sys2Proof/Machine/Step.lean ====
section
/-! DEFINITION. One step of the machine: the host's next turn, or the block answering the outstanding command (20_memory.md R63, 30_encoding.md R70). -/

namespace Sys2Proof.Machine

/-- The next event in the total order of R63. The host's plan says whose turn it is (log entry 4, DESIGN CHOICE); a host with an empty plan waits. -/
def step (s : State) : Host.Outcome State Fault Refusal :=
  match s.host with
  | [] => serve s
  | .wait :: rest => serve { s with host := rest }
  | .act op :: rest => hostAct op { s with host := rest }

/-- `s` with the command word `w` outstanding and the block to move next, so that the next step runs exactly it (log entry 10, DESIGN CHOICE). -/
def State.withFetchWord (s : State) (nbits w : Nat) : State :=
  { s with cmdPort := some (BitVec.ofNat 64 (w % 2 ^ nbits)), host := .wait :: s.host }

end Sys2Proof.Machine
end

