-- ==== Sys2Proof/Machine/Assembler.lean ====
section
/-! DEFINITION. The assembler syntax of 30_encoding.md section 6 (R82 to R85): text to commands and host operations. It is a tool of the host; no meaning of a command uses it. -/

namespace Sys2Proof.Machine

/-- A literal for an `N`-bit operand: it must lie in `[-2^(N-1), 2^N - 1]`, and stands for `low_N(x)` (R82). -/
def literal (n : Nat) (x : Int) : Option Nat :=
  if -2 ^ (n - 1) ≤ x ∧ x ≤ 2 ^ n - 1 then some (x % 2 ^ n).toNat else none

/-- A command with no operand (R83). -/
def asmNone (ops : List Int) (i : Instr) : Option (List Instr) := if ops = [] then some [i] else none

/-- A command with one operand of `n` bits (R83). -/
def asmOne (n : Nat) (ops : List Int) (f : Nat → Instr) : Option (List Instr) :=
  match ops with
  | [x] => (literal n x).map fun v => [f v]
  | _ => none

/-- `sr.load v, n` (R83). -/
def asmSrLoad (b : Build) (ops : List Int) : Option (List Instr) :=
  match ops with
  | [v, n] => do
    let v ← literal b.tw v
    let n ← literal b.nw n
    some [.srLoad (BitVec.ofNat 32 v) (BitVec.ofNat 24 n)]
  | _ => none

/-- `osc.process ni, no, eoi`, `eoi` in {0, 1} (R83). -/
def asmProcess (ops : List Int) : Option (List Instr) :=
  match ops with
  | [ni, no, eoi] => do
    let ni ← literal 16 ni
    let no ← literal 16 no
    if eoi = 0 ∨ eoi = 1 then some [.oscProcess (BitVec.ofNat 16 ni) (BitVec.ofNat 16 no) (eoi = 1)] else none
  | _ => none

/-- The commands a mnemonic of R83 with its operands stands for; `none` is refused by the assembler. -/
def asmCommand (b : Build) (mn : String) (ops : List Int) : Option (List Instr) :=
  if mn = "bx.load" then asmOne b.w ops fun v => .bxLoad (BitVec.ofNat 32 v)
  else if mn = "bx.pull" then asmNone ops .bxPull
  else if mn = "bx.stat" then asmNone ops .bxStat
  else if mn = "sr.load" then asmSrLoad b ops
  else if mn = "sr.pull" then asmNone ops .srPull
  else if mn = "sr.stat" then asmNone ops .srStat
  else if mn = "osc.setamp" then asmOne 16 ops fun v => .oscSetamp (BitVec.ofNat 16 v)
  else if mn = "osc.setoffi" then asmOne 16 ops fun v => .oscSetoffi (BitVec.ofNat 16 v)
  else if mn = "osc.setoffq" then asmOne 16 ops fun v => .oscSetoffq (BitVec.ofNat 16 v)
  else if mn = "osc.setcoeff" then asmOne 32 ops fun v => .oscSetcoeff (BitVec.ofNat 32 v)
  else if mn = "osc.setphase" then asmOne 32 ops fun v => .oscSetphase (BitVec.ofNat 32 v)
  else if mn = "osc.setfreq" then asmOne 32 ops fun v => .oscSetfreq (BitVec.ofNat 32 v)
  else if mn = "osc.rdamp" then asmNone ops .oscRdamp
  else if mn = "osc.rdoffi" then asmNone ops .oscRdoffi
  else if mn = "osc.rdoffq" then asmNone ops .oscRdoffq
  else if mn = "osc.rdcoeff" then asmNone ops .oscRdcoeff
  else if mn = "osc.rdphase" then asmNone ops .oscRdphase
  else if mn = "osc.rdfreq" then asmNone ops .oscRdfreq
  else if mn = "osc.rdstat" then asmNone ops .oscRdstat
  else if mn = "osc.process" then asmProcess ops
  else none

/-- The pseudo-instructions of R84; every other mnemonic is a command of R83. A pseudo-instruction is as many commands as its expansion. -/
def assemble (b : Build) (mn : String) (ops : List Int) : Option (List Instr) :=
  if mn = "osc.setoff" then
    match ops with
    | [i, q] => do
      let i ← asmCommand b "osc.setoffi" [i]
      let q ← asmCommand b "osc.setoffq" [q]
      some (i ++ q)
    | _ => none
  else if mn = "osc.init" then
    match ops with
    | [amp, offi, offq, coeff, phase] => do
      let amp ← asmCommand b "osc.setamp" [amp]
      let offi ← asmCommand b "osc.setoffi" [offi]
      let offq ← asmCommand b "osc.setoffq" [offq]
      let coeff ← asmCommand b "osc.setcoeff" [coeff]
      let phase ← asmCommand b "osc.setphase" [phase]
      some (amp ++ offi ++ offq ++ coeff ++ phase)
    | _ => none
  else if mn = "osc.finish" then
    match ops with
    | [no] => asmCommand b "osc.process" [0, no, 1]
    | _ => none
  else asmCommand b mn ops

/-- The host notation of R85: `host.wrin`, `host.rdin`, `host.wrout`, `host.rdout`. -/
def asmHost (mn : String) (ops : List Int) : Option HostOp :=
  match ops with
  | [a, v] => do
    let a ← literal 16 a
    if mn = "host.wrin" then (literal 16 v).map fun v => .writeIn (BitVec.ofNat 16 a) (BitVec.ofNat 16 v)
    else if mn = "host.wrout" then (literal 32 v).map fun v => .writeOut (BitVec.ofNat 16 a) (BitVec.ofNat 32 v)
    else none
  | [a] => do
    let a ← literal 16 a
    if mn = "host.rdin" then some (.readIn (BitVec.ofNat 16 a))
    else if mn = "host.rdout" then some (.readOut (BitVec.ofNat 16 a))
    else none
  | _ => none

/-- The host's turns for one mnemonic with operands: each command is written and then waited for (R70, R84). -/
def asmTurns (b : Build) (mn : String) (ops : List Int) : Option (List HostTurn) :=
  match asmHost mn ops with
  | some op => some [.act op]
  | none => (assemble b mn ops).map fun is => is.flatMap fun i => [.act (.command (encode i)), .wait]

/-- The value of a digit in base 10 or 16 (letter case: log entry 16, DESIGN CHOICE). -/
def digit (base : Nat) (c : Char) : Option Nat :=
  let v :=
    if '0' ≤ c ∧ c ≤ '9' then c.toNat - '0'.toNat
    else if 'a' ≤ c ∧ c ≤ 'f' then c.toNat - 'a'.toNat + 10
    else if 'A' ≤ c ∧ c ≤ 'F' then c.toNat - 'A'.toNat + 10
    else base
  if v < base then some v else none

/-- A run of at least one digit, most significant first. -/
def digits (base : Nat) (cs : List Char) : Option Nat :=
  if cs = [] then none
  else cs.foldl (fun acc c => do
    let n ← acc
    let d ← digit base c
    some (n * base + d)) (some 0)

/-- An integer literal: decimal, optionally with a leading `-`, or hexadecimal with prefix `0x` (R82). -/
def parseLiteral (cs : List Char) : Option Int :=
  match cs with
  | '0' :: 'x' :: ds => (digits 16 ds).map Int.ofNat
  | '-' :: ds => (digits 10 ds).map fun n => -Int.ofNat n
  | ds => (digits 10 ds).map Int.ofNat

/-- White space inside a line. -/
def isBlank (c : Char) : Bool := c == ' ' || c == '\t' || c == '\r'

/-- A field without the white space around it. -/
def trimBlank (cs : List Char) : List Char := ((cs.dropWhile isBlank).reverse.dropWhile isBlank).reverse

/-- The operands of a line, "separated by commas" (R82). -/
def parseOperands (cs : List Char) : Option (List Int) :=
  if trimBlank cs = [] then some []
  else (cs.splitOn ',').foldr (fun field acc => do
    let x ← parseLiteral (trimBlank field)
    let xs ← acc
    some (x :: xs)) (some [])

/-- One source line: a mnemonic and its operands; "A comment runs from `#` to the end of the line" (R82). A line with
nothing else on it gives nothing (log entry 16, DESIGN CHOICE). -/
def asmLine (b : Build) (line : List Char) : Option (List HostTurn) :=
  let body := trimBlank (line.takeWhile (· ≠ '#'))
  if body = [] then some []
  else do
    let ops ← parseOperands (body.dropWhile fun c => !isBlank c)
    asmTurns b (String.ofList (body.takeWhile fun c => !isBlank c)) ops

/-- A program: "One command is written per line" (R82). -/
def asmProgram (b : Build) (text : List Char) : Option (List HostTurn) :=
  (text.splitOn '\n').foldr (fun line acc => do
    let t ← asmLine b line
    let ts ← acc
    some (t ++ ts)) (some [])

end Sys2Proof.Machine
end

