-- ==== Sys2Proof/Safety.lean ====
section
/-! DEFINITION. The terms the statements use: what a good state is, what "no state change" means, and the sequences, runs and streams the spec's laws speak of. -/

namespace Sys2Proof.Machine

/-- The architectural state of R22. -/
structure Arch where
  bx : Bx
  sr : Sr
  osc : Osc
  inWin : Memory Q214
  outWin : Memory Quad
  deriving DecidableEq, Repr

/-- The part of a state that R22 calls the architectural state. -/
def State.arch (s : State) : Arch := ⟨s.bx, s.sr, s.osc, s.inWin, s.outWin⟩

/-- The state after reset in any build (R220). -/
def State.resetIn (b : Build) : State := { State.reset with build := b }

/-- A response word carries one of the four codes of R75, and AUX = DATA = 0 unless it is OK (R191). -/
def legalResponse (r : Word) : Bool :=
  (r.extractLsb' 56 8).toNat ≤ 3 && (r.extractLsb' 56 8 == 0 || r.extractLsb' 0 56 == 0)

/-- What holds in every reachable state: the build is legal (R7), the narrow registers fit their widths (R23, R26, R27),
BX_REM is in `0..W` (R25) and what is left of BX_ACC sits at its upper end, above zeros (R104), the windows are in canonical
form inside `DEPTH` (R50), OSC_FINISHED comes only with OSC_STARTED (R160), and every response so far is legal (R75, R191). -/
structure State.Inv (s : State) : Prop where
  legal : s.build.Legal
  acc_width : s.bx.acc.toNat < 2 ^ s.build.w
  rem_le : s.bx.rem.toNat ≤ s.build.w
  acc_low : 2 ^ (s.build.w - s.bx.rem.toNat) ∣ s.bx.acc.toNat
  val_width : s.sr.val.toNat < 2 ^ s.build.tw
  cnt_width : s.sr.cnt.toNat < 2 ^ s.build.nw
  in_wf : s.inWin.wf
  in_within : s.inWin.within s.build.depth
  out_wf : s.outWin.wf
  out_within : s.outWin.within s.build.depth
  started_of_finished : s.osc.finished = true → s.osc.started = true
  responses : ∀ r, .response r ∈ s.seen → legalResponse r = true

/-- From `s` to `t` one command was answered with the word `r`: `r` joined the response stream, the command is outstanding
no more, and the build, the host's plan and its reads are as before (R70). Says nothing of the architectural state. -/
structure Responds (s t : State) (r : Word) : Prop where
  seen : t.seen = s.seen ++ [.response r]
  cmdPort : t.cmdPort = none
  build : t.build = s.build
  host : t.host = s.host
  draws : t.draws = s.draws

/-- The next thing that happens in `s` is not `rst`. -/
def NotResetNext (s : State) : Prop := s.host.head? ≠ some (.act .rst)

/-- Nothing but the block can move next in `s`: the host waits. -/
def HostWaits (s : State) : Prop := s.host.head? = none ∨ s.host.head? = some .wait

/-- The word `c` is answered `respond(ILLEGAL_COMMAND, 0, 0)` in `s`, and no state changes (R80, R191). -/
def AnsweredIllegal (c : Word) (s : State) : Prop :=
  ∃ t, runWord c s = .next t ∧ Responds s t 0x0100000000000000 ∧ t.arch = s.arch

/-- What an `osc.set*` command `i` with word `word` does (R145 to R151): `f` to the OSC registers during construction, answered
OK; after it, ILLEGAL_STATE and no change. Nothing else changes. -/
def ConfigCommand (i : Instr) (word : Word) (f : Osc → Osc) : Prop :=
  ∀ s : State, decode s.build word = some i ∧
    (s.osc.started = false →
      ∃ t, exec i s = .next t ∧ Responds s t 0 ∧ t.arch = { s.arch with osc := f s.osc }) ∧
    (s.osc.started = true →
      ∃ t, exec i s = .next t ∧ Responds s t 0x0200000000000000 ∧ t.arch = s.arch)

/-- What an `osc.rd*` command `i` with word `word` does (R153 to R159): answers OK with DATA = `view` in every state, and changes nothing. -/
def ReadCommand (i : Instr) (word : Word) (view : Osc → BitVec 32) : Prop :=
  ∀ s : State, decode s.build word = some i ∧
    ∃ t, exec i s = .next t ∧ Responds s t (0#8 ++ 0#24 ++ view s.osc) ∧ t.arch = s.arch

/-- The units of the block (R2). -/
inductive BlockUnit where
  | bx
  | sr
  | osc
  deriving DecidableEq, Repr

/-- The unit a command belongs to (R82: the prefix of its mnemonic). -/
def unitOf : Instr → BlockUnit
  | .bxLoad _ | .bxPull | .bxStat => .bx
  | .srLoad _ _ | .srPull | .srStat => .sr
  | .oscSetamp _ | .oscSetoffi _ | .oscSetoffq _ | .oscSetcoeff _ | .oscSetphase _ | .oscSetfreq _ => .osc
  | .oscRdamp | .oscRdoffi | .oscRdoffq | .oscRdcoeff | .oscRdphase | .oscRdfreq | .oscRdstat => .osc
  | .oscProcess _ _ _ => .osc

/-- Two states agree on the state of one unit; the windows are OSC's (R22). -/
def SameUnit (u : BlockUnit) (s t : State) : Prop :=
  match u with
  | .bx => s.bx = t.bx
  | .sr => s.sr = t.sr
  | .osc => s.osc = t.osc ∧ s.inWin = t.inWin ∧ s.outWin = t.outWin

/-- IN entries `0 .. n-1` are written and hold the control samples `cs`, `n` their number (R57's premise). -/
def HoldsIn (s : State) (cs : List Q214) : Prop := ∀ k (h : k < cs.length), s.inWin.read k = some cs[k]

/-- The phase after the control samples `cs`, from phase `p`: `P_(m+1) = low_32(uint(P_m) + uint(FreqOf(c_m, OSC_COEFF)))` (R164). -/
def streamPhase (coeff : Freq) (p : Phase) : List Q214 → Phase
  | [] => p
  | c :: cs => streamPhase coeff (low 32 (p.toNat + (freqOf c coeff).toNat : Nat)) cs

/-- The OUT entries the control samples `cs` give from phase `p`: output `m` is `OutOf(PTS(P_m), ...)` (R164). -/
def streamOut (b : Build) (o : Osc) (p : Phase) : List Q214 → List Quad
  | [] => []
  | c :: cs => outOf (pts b.pts p) o.amp o.offi o.offq
      :: streamOut b o (low 32 (p.toNat + (freqOf c o.coeff).toNat : Nat)) cs

/-- The frequency after the control samples `cs`, from `f` (R158). -/
def streamFreq (coeff : Freq) (f : Freq) (cs : List Q214) : Freq := (cs.getLast?.map (freqOf · coeff)).getD f

/-- `n` commands `i` one after another; `none` if one of them does not answer. -/
def repeatCommand (i : Instr) : Nat → State → Option State
  | 0, s => some s
  | n + 1, s =>
    match repeatCommand i n s with
    | some t =>
      match exec i t with
      | .next u => some u
      | .fault _ => none
      | .refused _ => none
    | none => none

/-- The commands of a list, one after another; `none` if one of them does not answer. -/
def runCommands : List Instr → State → Option State
  | [], s => some s
  | i :: is, s =>
    match exec i s with
    | .next t => runCommands is t
    | .fault _ => none
    | .refused _ => none

/-- The last observation is this response. -/
def Answered (s : State) (st : Status) (aux : BitVec 24) (data : BitVec 32) : Prop :=
  s.seen.getLast? = some (.response (respond st aux data))

/-- OUT entries `0 .. n-1`, as far as they are written. -/
def outEntries (n : Nat) (s : State) : List Quad := (List.range n).filterMap s.outWin.read

/-- The host fills IN from entry 0 with `cs` (R223 step 3). -/
def fillIn (cs : List Q214) (k : Nat) (s : State) : State :=
  match cs with
  | [] => s
  | c :: rest => fillIn rest (k + 1) { s with inWin := s.inWin.write k c }

/-- One `osc.process` of a stream: the control samples it is to consume, and its operands. A window whose `ni` is larger than
the number of samples has input left over, which the block does not read (R54). -/
structure Window where
  samples : List Q214
  ni : BitVec 16
  no : BitVec 16
  eoi : Bool
  deriving DecidableEq, Repr

/-- The window is accepted, and consumes exactly its samples: `n = min(ni, no)` (R54, R162). -/
def Window.fits (b : Build) (w : Window) : Prop :=
  w.samples.length = min w.ni.toNat w.no.toNat ∧ w.ni.toNat ≤ b.depth ∧ w.no.toNat ≤ b.depth

/-- A stream cut into windows: for each, the host fills IN with its samples, the block processes it, and the host takes the
entries written (R165, R232). The entries of all windows in order, and the last state. -/
def runWindows : List Window → State → Option (List Quad × State)
  | [], s => some ([], s)
  | w :: rest, s =>
    match exec (.oscProcess w.ni w.no w.eoi) (fillIn w.samples 0 s) with
    | .next t => (runWindows rest t).map fun (es, u) => (outEntries w.samples.length t ++ es, u)
    | .fault _ => none
    | .refused _ => none

/-- The DATA fields of the responses with VALID = 1 among some observations (R74). -/
def validData (obs : List Observation) : List (BitVec 32) :=
  obs.filterMap fun
    | .response r => if r.extractLsb' 32 24 = 1 then some (r.extractLsb' 0 32) else none
    | .inEntry _ _ => none
    | .outEntry _ _ => none

/-- R126's inner loop: `sr.pull` until VALID = 0, at most `fuel` times; the symbols got. -/
def drainSr : Nat → State → Option (List (BitVec 32) × State)
  | 0, _ => none
  | fuel + 1, s =>
    match exec .srPull s with
    | .next t =>
      match validData (t.seen.drop s.seen.length) with
      | [] => some ([], t)
      | d :: _ => (drainSr fuel t).map fun (ds, u) => (d :: ds, u)
    | .fault _ => none
    | .refused _ => none

/-- R126's middle loop: for each valid `bx.pull`, `sr.load` the bit with count `n`, then drain SR. -/
def drainBx (n : BitVec 24) : Nat → State → Option (List (BitVec 32) × State)
  | 0, _ => none
  | fuel + 1, s =>
    match exec .bxPull s with
    | .next t =>
      match validData (t.seen.drop s.seen.length) with
      | [] => some ([], t)
      | bit :: _ =>
        match exec (.srLoad bit n) t with
        | .next u => do
          let (ds, u) ← drainSr (n.toNat + 1) u
          let (es, u) ← drainBx n fuel u
          some (ds ++ es, u)
        | .fault _ => none
        | .refused _ => none
    | .fault _ => none
    | .refused _ => none

/-- R126's host loop over the payload values: the valid SR elements in order, and the last state. -/
def flattenPayload (n : BitVec 24) : List (BitVec 32) → State → Option (List (BitVec 32) × State)
  | [], s => some ([], s)
  | v :: vs, s =>
    match exec (.bxLoad v) s with
    | .next t => do
      let (ds, t) ← drainBx n (s.build.w + 1) t
      let (es, t) ← flattenPayload n vs t
      some (ds ++ es, t)
    | .fault _ => none
    | .refused _ => none

/-- The bits of a `w`-bit value, most significant first (R100). -/
def bitsMsbFirst (w : Nat) (v : BitVec 32) : List (BitVec 32) :=
  (List.range w).map fun i => if v.getLsbD (w - 1 - i) then 1 else 0

end Sys2Proof.Machine
end

