-- ==== Sys2Proof/Certificates/Slice0/Obligations.lean ====
section
/-! DEFINITION. The statements for the provers. Each names the rule of spec/ it formalises; none rests on the value of `draws`,
of a free value of Config, or of a build other than the one it names. -/

open Sys2Proof Sys2Proof.Machine

/-! ## Encoding (30_encoding.md) -/

/-- R83 and R77 agree: in every build, each command of the build, with every operand it admits, decodes from its own word. -/
def Obligations.EncodedCommandDecodesToItself : Prop :=
  ∀ (b : Build) (i : Instr), i.wellFormed b = true → decode b (encode i) = some i

/-- R77 and R83 agree the other way: a word that decodes is the word of what it decodes to, and that is a command of the build. -/
def Obligations.DecodedWordIsTheEncoding : Prop :=
  ∀ (b : Build) (c : Word) (i : Instr), decode b c = some i → encode i = c ∧ i.wellFormed b = true

/-- R76, with the masks that R78 gives in any legal build: "A word `c` is the instruction when `c AND mask = match`", and no two
rows match the same word. For the default parameters the map is the printed table. -/
def Obligations.OpcodeMapSaysWhatDecodes : Prop :=
  opcodeMap Build.standard = opcodeTable ∧ ∀ (b : Build) (c : Word), b.Legal →
    (∀ row ∈ opcodeMap b, (row.matches c = true ↔ ∃ i, decode b c = some i ∧ i.mnemonic = row.mnemonic)) ∧
    (∀ row ∈ opcodeMap b, ∀ row' ∈ opcodeMap b, row.matches c = true → row'.matches c = true → row = row')

/-- R78: a word with any reserved bit set is illegal. The bits are named one by one, by position in fields A and D. -/
def Obligations.ReservedBitSetIsIllegal : Prop :=
  ∀ (b : Build) (c : Word) (k : Nat),
    (opcField c = 0x10 → (aField c).getLsbD k = true ∨ b.w ≤ k ∧ (dField c).getLsbD k = true → decode b c = none) ∧
    (opcField c ∈ [0x11#8, 0x12#8, 0x21#8, 0x22#8] →
      (aField c).getLsbD k = true ∨ (dField c).getLsbD k = true → decode b c = none) ∧
    (opcField c = 0x20 →
      b.nw ≤ k ∧ (aField c).getLsbD k = true ∨ b.tw ≤ k ∧ (dField c).getLsbD k = true → decode b c = none) ∧
    (opcField c = 0x30 →
      3 ≤ k ∧ (aField c).getLsbD k = true ∨
        ((aField c).extractLsb' 0 3).toNat ≤ 2 ∧ 16 ≤ k ∧ (dField c).getLsbD k = true → decode b c = none) ∧
    (opcField c = 0x31 → 3 ≤ k ∧ (aField c).getLsbD k = true ∨ (dField c).getLsbD k = true → decode b c = none) ∧
    (opcField c = 0x40 → 1 ≤ k ∧ (aField c).getLsbD k = true → decode b c = none)

/-- R79: every other opcode, register index 6 or 7 under OPC 0x30, index 7 under OPC 0x31 and the all-zero word are unassigned. -/
def Obligations.UnassignedWordIsIllegal : Prop :=
  ∀ (b : Build) (c : Word),
    (opcField c ∉ [0x10#8, 0x11#8, 0x12#8, 0x20#8, 0x21#8, 0x22#8, 0x30#8, 0x31#8, 0x40#8] → decode b c = none) ∧
    (opcField c = 0x30 → 6 ≤ ((aField c).extractLsb' 0 3).toNat → decode b c = none) ∧
    (opcField c = 0x31 → (aField c).extractLsb' 0 3 = 7 → decode b c = none) ∧
    decode b 0 = none

/-- Words of the spec's examples, one or more a family, read in the build of R7's defaults: six of 95_test_vectors.md section 2,
and that of R160's example, `osc.process 1, 2, 1`. -/
def Obligations.ExampleWordsDecode : Prop :=
  decode Build.standard 0x1000000000000055 = some (.bxLoad 0x55) ∧
  decode Build.standard 0x1100000000000000 = some .bxPull ∧
  decode Build.standard 0x2000022C00000001 = some (.srLoad 1 556) ∧
  decode Build.standard 0x300000020000F000 = some (.oscSetoffq 0xF000) ∧
  decode Build.standard 0x3000000440000000 = some (.oscSetphase 0x40000000) ∧
  decode Build.standard 0x3100000600000000 = some .oscRdstat ∧
  decode Build.standard 0x4000000100020001 = some (.oscProcess 1 2 true)

/-- R59: byte `i` of a pattern is `v[8i+7:8i]`, and the bytes, lowest first, give the pattern back. -/
def Obligations.ByteViewIsLittleEndian : Prop :=
  ∀ (k : Nat) (v : BitVec (8 * k)),
    (byteView k v).length = k ∧
    (∀ i (h : i < (byteView k v).length), (byteView k v)[i] = v.extractLsb' (8 * i) 8) ∧
    ofByteView (byteView k v) = v.toNat

/-- R82, R83: whatever the assembler accepts is a command of the build, so its word decodes to it. -/
def Obligations.AssembledCommandIsWellFormed : Prop :=
  ∀ (b : Build) (mn : String) (ops : List Int) (is : List Instr), b.Legal →
    assemble b mn ops = some is → ∀ i ∈ is, i.wellFormed b = true ∧ decode b (encode i) = some i

/-- R84: the three pseudo-instructions expand, in order, to the commands the table gives, and are refused when one of these is.
With `1 <= no <= DEPTH`, the expansion of `osc.finish` answers and sets OSC_FINISHED. -/
def Obligations.PseudoInstructionsExpand : Prop :=
  ∀ (b : Build) (amp offi offq coeff phase no : Int),
    assemble b "osc.setoff" [offi, offq] =
      (do let i ← assemble b "osc.setoffi" [offi]; let q ← assemble b "osc.setoffq" [offq]; some (i ++ q)) ∧
    assemble b "osc.init" [amp, offi, offq, coeff, phase] =
      (do let a ← assemble b "osc.setamp" [amp]
          let o ← assemble b "osc.setoff" [offi, offq]
          let k ← assemble b "osc.setcoeff" [coeff]
          let p ← assemble b "osc.setphase" [phase]
          some (a ++ o ++ k ++ p)) ∧
    assemble b "osc.finish" [no] = assemble b "osc.process" [0, no, 1] ∧
    ∀ (s : State) (k : BitVec 16), 1 ≤ k.toNat → k.toNat ≤ s.build.depth →
      ∃ t, exec (.oscProcess 0 k true) s = .next t ∧ t.osc.finished = true

/-- R84 with R82 and R83, in the commands themselves: on literals in R82's range each pseudo-instruction is the list of commands
named here, operands `low_N(x)`. It is not atomic: the host writes each command of its expansion and waits for it before the next
(the host's turns are the model's own, log entry 4, DESIGN CHOICE). -/
def Obligations.PseudoInstructionsNameTheirCommands : Prop :=
  ∀ (b : Build) (amp offi offq coeff phase no : Int),
    (-2 ^ 15 ≤ amp ∧ amp ≤ 2 ^ 16 - 1) → (-2 ^ 15 ≤ offi ∧ offi ≤ 2 ^ 16 - 1) → (-2 ^ 15 ≤ offq ∧ offq ≤ 2 ^ 16 - 1) →
    (-2 ^ 31 ≤ coeff ∧ coeff ≤ 2 ^ 32 - 1) → (-2 ^ 31 ≤ phase ∧ phase ≤ 2 ^ 32 - 1) → (-2 ^ 15 ≤ no ∧ no ≤ 2 ^ 16 - 1) →
    assemble b "osc.setoff" [offi, offq] = some [.oscSetoffi (low 16 offi), .oscSetoffq (low 16 offq)] ∧
    assemble b "osc.init" [amp, offi, offq, coeff, phase] =
      some [.oscSetamp (low 16 amp), .oscSetoffi (low 16 offi), .oscSetoffq (low 16 offq), .oscSetcoeff (low 32 coeff),
        .oscSetphase (low 32 phase)] ∧
    assemble b "osc.finish" [no] = some [.oscProcess 0 (low 16 no) true] ∧
    ∀ mn ∈ ["osc.setoff", "osc.init", "osc.finish"], ∀ (ops : List Int) (is : List Instr), assemble b mn ops = some is →
      asmTurns b mn ops = some (is.flatMap fun i => [.act (.command (encode i)), .wait])

/-- R81: the decoder reads the word and `W`, `TW` and `NW`, nothing else: builds that agree on these decode alike. -/
def Obligations.DecodeReadsOnlyTheWidths : Prop :=
  ∀ (b b' : Build) (c : Word), b.w = b'.w → b.tw = b'.tw → b.nw = b'.nw → decode b c = decode b' c

/-! ## Steps, answers and errors (30_encoding.md section 1, 60_exceptions.md) -/

/-- When a command word that decodes to `i` is outstanding and the host waits, the step is `exec` of `i`; the host's turn is used up.
The host's plan is the model's own field (log entry 4, DESIGN CHOICE), and withFetchWord is its way to place a command (log entry 10, DESIGN CHOICE). -/
def Obligations.StepRunsTheDecodedCommand : Prop :=
  ∀ (s : State) (c : Word) (i : Instr), s.cmdPort = some c → decode s.build c = some i →
    (HostWaits s → step s = exec i { s with host := s.host.tail }) ∧
    step (s.withFetchWord 64 c.toNat) = exec i s

/-- R80: a word that decodes to no command is answered `respond(ILLEGAL_COMMAND, 0, 0)` and changes no state. The
host's turn that the step uses up is the model's own (log entry 4, DESIGN CHOICE). -/
def Obligations.IllegalWordIsAnsweredIllegalCommand : Prop :=
  ∀ (s : State) (c : Word), s.cmdPort = some c → decode s.build c = none → HostWaits s →
    ∃ t, step s = .next t ∧ Responds { s with host := s.host.tail } t 0x0100000000000000 ∧ t.arch = s.arch

/-- R70: for every command word the block runs to an end, it writes exactly one response word, after all earlier ones, and the
command is outstanding no more. -/
def Obligations.EachCommandGetsOneResponse : Prop :=
  ∀ (s t : State) (c : Word), runWord c s = .next t → ∃ r, Responds s t r

/-- R12, R207: every command word has a result. The one stop is the model's own `UNINIT_IN(k)` of R201, on an `osc.process`
that would read the unwritten IN entry `k` (log entry 7, DEDUCED). -/
def Obligations.EveryCommandCompletes : Prop :=
  ∀ (s : State) (c : Word),
    (∃ t, runWord c s = .next t) ∨
    ∃ ni no eoi k, decode s.build c = some (.oscProcess ni no eoi) ∧ k < min ni.toNat no.toNat ∧
      s.inWin.read k = none ∧ runWord c s = .fault (.uninitIn k)

/-- R191, R75: the status of a response is one of 0 to 3; with any status but OK, AUX and DATA are 0 and no architectural state changes. -/
def Obligations.ErrorStatusChangesNothing : Prop :=
  ∀ (s t : State) (c : Word), runWord c s = .next t →
    ∃ r, Responds s t r ∧ (opcField r).toNat ≤ 3 ∧
      (opcField r ≠ 0 → aField r = 0 ∧ dField r = 0 ∧ t.arch = s.arch)

/-- R190, R192: which error each command word can meet, in the order of the checks. ILLEGAL_COMMAND wins; ILLEGAL_STATE is for
`osc.set*` while OSC_STARTED = 1; WINDOW_RANGE is for `osc.process` with a window longer than `DEPTH`; every other command is OK
(there is no fifth code). -/
def Obligations.StatusFollowsTheCause : Prop :=
  ∀ (s t : State) (c : Word), runWord c s = .next t →
    ∃ r, Responds s t r ∧ (opcField r).toNat ≤ 3 ∧
      (opcField r = 1 ↔ decode s.build c = none) ∧
      (opcField r = 2 ↔ decode s.build c ≠ none ∧ opcField c = 0x30 ∧ s.osc.started = true) ∧
      (opcField r = 3 ↔ ∃ ni no eoi, decode s.build c = some (.oscProcess ni no eoi) ∧
        (s.build.depth < ni.toNat ∨ s.build.depth < no.toNat))

/-- R193: an error leaves nothing behind. After a command answered with a non-OK status, every command word is answered, and
changes the architectural state, as if the failed one had not been sent. -/
def Obligations.FailedCommandLeavesNoTrace : Prop :=
  ∀ (s t u : State) (c c' : Word) (r : Word), runWord c s = .next t → Responds s t r → opcField r ≠ 0 →
    runWord c' s = .next u →
    ∃ u' r', runWord c' t = .next u' ∧ u'.arch = u.arch ∧ Responds s u r' ∧ Responds t u' r'

/-- R206: between commands the block is idle and keeps all of its state; only the host's turn is used up
(the model's own field: log entries 4 and 18, DESIGN CHOICE and DEDUCED). -/
def Obligations.IdleBlockKeepsItsState : Prop :=
  ∀ s : State, s.cmdPort = none → HostWaits s → step s = .next { s with host := s.host.tail }

/-! ## Reset and invariants (70_reset_and_hazards.md, 10_state.md) -/

/-- R220: what `rst` leaves, at any time, in every build: each register at its reset value, every window entry unwritten, an
outstanding command abandoned without a response; and the same holds of the state the machine starts in. That the build, the host's record
and the rest of its plan stay is the model's reading (log entry 11, DEDUCED; the plan and the record: log entries 4 and 5,
DESIGN CHOICE). -/
def Obligations.ResetGivesTheResetValues : Prop :=
  (∀ (s : State) (rest : List HostTurn), s.host = .act .rst :: rest →
    ∃ t, step s = .next t ∧ t.cmdPort = none ∧ t.seen = s.seen ∧ t.host = rest ∧ t.build = s.build ∧ t.arch = State.reset.arch) ∧
  (State.reset.bx.acc = 0 ∧ State.reset.bx.rem = 0 ∧ State.reset.sr.val = 0 ∧ State.reset.sr.cnt = 0 ∧
    State.reset.osc.phase = 0 ∧ State.reset.osc.freq = 0 ∧ State.reset.osc.amp = 0x4000 ∧ State.reset.osc.offi = 0 ∧
    State.reset.osc.offq = 0 ∧ State.reset.osc.coeff = 0 ∧ State.reset.osc.started = false ∧ State.reset.osc.finished = false ∧
    (∀ k, State.reset.inWin.read k = none) ∧ (∀ k, State.reset.outWin.read k = none) ∧ State.reset.cmdPort = none)

/-- The machine meets the invariant right after reset, in every legal build. -/
def Obligations.ResetMeetsTheInvariant : Prop :=
  ∀ b : Build, b.Legal → (State.resetIn b).Inv

/-- Every step, of the host or of the block, keeps the invariant of Safety.lean (R25 among it). -/
def Obligations.StepKeepsTheInvariant : Prop :=
  ∀ s t : State, s.Inv → step s = .next t → t.Inv

/-- R7: "`W`, `TW`, `NW`, `DEPTH` and `PTS` never change after reset"; no step changes the build. That it
stands in State is the model's choice (log entry 1, DESIGN CHOICE). -/
def Obligations.StepKeepsTheBuild : Prop :=
  ∀ s t : State, step s = .next t → t.build = s.build

/-- R34, R35: nothing but reset clears OSC_STARTED or OSC_FINISHED, and only an `osc.process` sets them. -/
def Obligations.OnlyResetClearsTheFlags : Prop :=
  ∀ s t : State, step s = .next t → NotResetNext s →
    (s.osc.started = true → t.osc.started = true) ∧
    (s.osc.finished = true → t.osc.finished = true) ∧
    (t.osc.started ≠ s.osc.started ∨ t.osc.finished ≠ s.osc.finished →
      HostWaits s ∧ ∃ c ni no eoi, s.cmdPort = some c ∧ decode s.build c = some (.oscProcess ni no eoi))

/-- R34, R234: once OSC_STARTED = 1, no step but reset changes the amplitude, the offset or the coefficient. -/
def Obligations.StartedConfigurationIsFrozen : Prop :=
  ∀ s t : State, s.osc.started = true → NotResetNext s → step s = .next t →
    t.osc.amp = s.osc.amp ∧ t.osc.offi = s.osc.offi ∧ t.osc.offq = s.osc.offq ∧ t.osc.coeff = s.osc.coeff

/-- R2, R204: no unit shares state with another. A command changes the state of its own unit only, and its answer and its unit's
new state depend on nothing outside that unit. -/
def Obligations.UnitsShareNothing : Prop :=
  (∀ (i : Instr) (s t : State) (u : BlockUnit), exec i s = .next t → u ≠ unitOf i → SameUnit u s t) ∧
  (∀ (i : Instr) (s s' t : State), s.build = s'.build → SameUnit (unitOf i) s s' → exec i s = .next t →
    ∃ t' r, exec i s' = .next t' ∧ SameUnit (unitOf i) t t' ∧ Responds s t r ∧ Responds s' t' r)

/-! ## BX (40_bit_expander.md) -/

/-- R101, R102: `bx.load v` in any state of BX. -/
def Obligations.BxLoadStartsTheSequence : Prop :=
  ∀ (s : State) (v : BitVec 32), s.build.Legal → v.toNat < 2 ^ s.build.w →
    decode s.build (0x10#8 ++ 0#24 ++ v) = some (.bxLoad v) ∧
    (∃ t, exec (.bxLoad v) s = .next t ∧ Responds s t 0 ∧
      t.bx.acc = v ∧ t.bx.rem.toNat = s.build.w ∧ t.arch = { s.arch with bx := t.bx }) ∧
    ∀ c, opcField c = 0x10 → aField c ≠ 0 ∨ 2 ^ s.build.w ≤ (dField c).toNat → AnsweredIllegal c s

/-- R103: `bx.pull` emits BX_ACC[W-1] and shifts while BX_REM > 0, and answers VALID = 0 with no state change when BX_REM = 0. -/
def Obligations.BxPullEmitsTheTopBit : Prop :=
  ∀ s : State, s.build.Legal →
    decode s.build 0x1100000000000000 = some .bxPull ∧
    (s.bx.rem = 0 → ∃ t, exec .bxPull s = .next t ∧ Responds s t 0 ∧ t.arch = s.arch) ∧
    (s.bx.rem ≠ 0 → ∃ t, exec .bxPull s = .next t ∧
      Responds s t (if s.bx.acc.getLsbD (s.build.w - 1) then 0x0000000100000001 else 0x0000000100000000) ∧
      t.bx.acc.toNat = s.bx.acc.toNat * 2 % 2 ^ s.build.w ∧ t.bx.rem.toNat + 1 = s.bx.rem.toNat ∧
      t.arch = { s.arch with bx := t.bx }) ∧
    ∀ c, opcField c = 0x11 → aField c ≠ 0 ∨ dField c ≠ 0 → AnsweredIllegal c s

/-- R105: `bx.stat` answers `respond(OK, zext_24(BX_REM), zext_32(BX_ACC))` and changes nothing. -/
def Obligations.BxStatReadsTheCursor : Prop :=
  ∀ s : State,
    decode s.build 0x1200000000000000 = some .bxStat ∧
    (∃ t, exec .bxStat s = .next t ∧ Responds s t (0#8 ++ s.bx.rem.setWidth 24 ++ s.bx.acc) ∧ t.arch = s.arch) ∧
    ∀ c, opcField c = 0x12 → aField c ≠ 0 ∨ dField c ≠ 0 → AnsweredIllegal c s

/-- R104, the sequence law. After `bx.load v`, and whatever commands of the other units come between, pull `i` (from 0) answers
VALID = 1 with bit `v[W-1-i]` for `i < W`, and VALID = 0 from then on; the cursor is as the rule says; and `W` pulls do answer. -/
def Obligations.BxPullsEmitTheBitsMsbFirst : Prop :=
  ∀ (s s0 : State) (v : BitVec 32), s.build.Legal → v.toNat < 2 ^ s.build.w → exec (.bxLoad v) s = .next s0 →
    (∀ n, ∃ t, repeatCommand .bxPull n s0 = some t) ∧
    ∀ (is : List Instr) (t : State), (∀ i ∈ is, i = .bxPull ∨ unitOf i ≠ .bx) → runCommands (is ++ [.bxPull]) s0 = some t →
      let i := is.count .bxPull
      (i < s.build.w → Answered t .ok 1 (if v.getLsbD (s.build.w - 1 - i) then 1 else 0) ∧
        t.bx.acc.toNat = v.toNat * 2 ^ (i + 1) % 2 ^ s.build.w ∧ t.bx.rem.toNat = s.build.w - 1 - i) ∧
      (s.build.w ≤ i → Answered t .ok 0 0 ∧ t.bx.acc = 0 ∧ t.bx.rem = 0)

/-! ## SR (41_symbol_repeater.md) -/

/-- R121, R122: `sr.load v, n` in any state of SR, `n = 0` among the counts. -/
def Obligations.SrLoadStartsTheRun : Prop :=
  ∀ (s : State) (v : BitVec 32) (n : BitVec 24), v.toNat < 2 ^ s.build.tw → n.toNat < 2 ^ s.build.nw →
    decode s.build (0x20#8 ++ n ++ v) = some (.srLoad v n) ∧
    (∃ t, exec (.srLoad v n) s = .next t ∧ Responds s t 0 ∧ t.arch = { s.arch with sr := ⟨v, n⟩ }) ∧
    ∀ c, opcField c = 0x20 → 2 ^ s.build.nw ≤ (aField c).toNat ∨ 2 ^ s.build.tw ≤ (dField c).toNat → AnsweredIllegal c s

/-- R123: `sr.pull` answers the symbol and counts down while SR_CNT > 0, and answers VALID = 0 with no state change when SR_CNT = 0. -/
def Obligations.SrPullEmitsTheSymbol : Prop :=
  ∀ s : State,
    decode s.build 0x2100000000000000 = some .srPull ∧
    (s.sr.cnt = 0 → ∃ t, exec .srPull s = .next t ∧ Responds s t 0 ∧ t.arch = s.arch) ∧
    (s.sr.cnt ≠ 0 → ∃ t, exec .srPull s = .next t ∧ Responds s t (0#8 ++ 1#24 ++ s.sr.val) ∧
      t.sr.val = s.sr.val ∧ t.sr.cnt.toNat + 1 = s.sr.cnt.toNat ∧ t.arch = { s.arch with sr := t.sr }) ∧
    ∀ c, opcField c = 0x21 → aField c ≠ 0 ∨ dField c ≠ 0 → AnsweredIllegal c s

/-- R125: `sr.stat` answers `respond(OK, zext_24(SR_CNT), zext_32(SR_VAL))` and changes nothing. -/
def Obligations.SrStatReadsTheCursor : Prop :=
  ∀ s : State,
    decode s.build 0x2200000000000000 = some .srStat ∧
    (∃ t, exec .srStat s = .next t ∧ Responds s t (0#8 ++ s.sr.cnt ++ s.sr.val) ∧ t.arch = s.arch) ∧
    ∀ c, opcField c = 0x22 → aField c ≠ 0 ∨ dField c ≠ 0 → AnsweredIllegal c s

/-- R124, the run law. After `sr.load v, n`, and whatever commands of the other units come between, pulls 1 to `n` answer
VALID = 1 with `v`, every later pull VALID = 0, and after pull `i <= n` SR_CNT is `n - i`; and any number of pulls does answer. -/
def Obligations.SrPullsEmitTheRun : Prop :=
  ∀ (s s0 : State) (v : BitVec 32) (n : BitVec 24), v.toNat < 2 ^ s.build.tw → n.toNat < 2 ^ s.build.nw →
    exec (.srLoad v n) s = .next s0 →
    (∀ m, ∃ t, repeatCommand .srPull m s0 = some t) ∧
    ∀ (is : List Instr) (t : State), (∀ i ∈ is, i = .srPull ∨ unitOf i ≠ .sr) → runCommands (is ++ [.srPull]) s0 = some t →
      let i := is.count .srPull + 1
      (i ≤ n.toNat → Answered t .ok 1 v ∧ t.sr.cnt.toNat = n.toNat - i) ∧
      (n.toNat < i → Answered t .ok 0 0 ∧ t.sr.cnt = 0)

/-- R126: the host loop of BX into SR over `m` payload values yields, in order, each bit of each value, most significant first,
`n` times: `m × W × n` symbols. -/
def Obligations.FlattenedPayloadIsTheRepeatedBits : Prop :=
  ∀ (s : State) (vs : List (BitVec 32)) (n : BitVec 24), s.build.Legal →
    (∀ v ∈ vs, v.toNat < 2 ^ s.build.w) → n.toNat < 2 ^ s.build.nw →
    ∃ ds t, flattenPayload n vs s = some (ds, t) ∧
      ds = vs.flatMap (fun v => (bitsMsbFirst s.build.w v).flatMap fun bit => List.replicate n.toNat bit) ∧
      ds.length = vs.length * s.build.w * n.toNat ∧ ∀ d ∈ ds, d = 0 ∨ d = 1

/-! ## OSC: configuration and reads (42_oscillator.md sections 3 and 4) -/

/-- R145 to R151: the six configuration writes, each with its word, its register, its answer and its lock; and the words with a
reserved bit set, or with register index 6 or 7, are answered ILLEGAL_COMMAND whether the lock is on or not. -/
def Obligations.ConfigurationWritesAndTheirLock : Prop :=
  (∀ (c : Word) (s : State), opcField c = 0x30 →
    6 ≤ (aField c).toNat ∨ (aField c).toNat ≤ 2 ∧ 2 ^ 16 ≤ (dField c).toNat → AnsweredIllegal c s) ∧
  ∀ (v : Q214) (x : BitVec 32),
    ConfigCommand (.oscSetamp v) (0x30#8 ++ 0#24 ++ (0#16 ++ v)) (fun o => { o with amp := v }) ∧
    ConfigCommand (.oscSetoffi v) (0x30#8 ++ 1#24 ++ (0#16 ++ v)) (fun o => { o with offi := v }) ∧
    ConfigCommand (.oscSetoffq v) (0x30#8 ++ 2#24 ++ (0#16 ++ v)) (fun o => { o with offq := v }) ∧
    ConfigCommand (.oscSetcoeff x) (0x30#8 ++ 3#24 ++ x) (fun o => { o with coeff := x }) ∧
    ConfigCommand (.oscSetphase x) (0x30#8 ++ 4#24 ++ x) (fun o => { o with phase := x }) ∧
    ConfigCommand (.oscSetfreq x) (0x30#8 ++ 5#24 ++ x) (fun o => { o with freq := x })

/-- R152: during construction, writes in any order and number leave each register at the last value written to it, or, where
there is none, at the value it had. -/
def Obligations.LastConfigurationWriteWins : Prop :=
  ∀ (s : State) (is : List Instr), s.osc.started = false →
    (∀ i ∈ is, i.opc = 0x30) →
    ∃ t, runCommands is s = some t ∧ t.osc.started = false ∧
      t.osc.amp = ((is.filterMap fun | .oscSetamp v => some v | _ => none).getLast?).getD s.osc.amp ∧
      t.osc.offi = ((is.filterMap fun | .oscSetoffi v => some v | _ => none).getLast?).getD s.osc.offi ∧
      t.osc.offq = ((is.filterMap fun | .oscSetoffq v => some v | _ => none).getLast?).getD s.osc.offq ∧
      t.osc.coeff = ((is.filterMap fun | .oscSetcoeff v => some v | _ => none).getLast?).getD s.osc.coeff ∧
      t.osc.phase = ((is.filterMap fun | .oscSetphase v => some v | _ => none).getLast?).getD s.osc.phase ∧
      t.osc.freq = ((is.filterMap fun | .oscSetfreq v => some v | _ => none).getLast?).getD s.osc.freq

/-- R153 to R159 (and R37, R73): the seven reads, zero-extended, in every state; nothing changes; and every other word with
OPC 0x31 is answered ILLEGAL_COMMAND. -/
def Obligations.ReadsReportTheRegisters : Prop :=
  (∀ (c : Word) (s : State), opcField c = 0x31 → 7 ≤ (aField c).toNat ∨ dField c ≠ 0 → AnsweredIllegal c s) ∧
  ReadCommand .oscRdamp 0x3100000000000000 (fun o => 0#16 ++ o.amp) ∧
  ReadCommand .oscRdoffi 0x3100000100000000 (fun o => 0#16 ++ o.offi) ∧
  ReadCommand .oscRdoffq 0x3100000200000000 (fun o => 0#16 ++ o.offq) ∧
  ReadCommand .oscRdcoeff 0x3100000300000000 (fun o => o.coeff) ∧
  ReadCommand .oscRdphase 0x3100000400000000 (fun o => o.phase) ∧
  ReadCommand .oscRdfreq 0x3100000500000000 (fun o => o.freq) ∧
  ReadCommand .oscRdstat 0x3100000600000000 (fun o => 0#30 ++ BitVec.ofBool o.finished ++ BitVec.ofBool o.started)

/-! ## OSC: numerics (42_oscillator.md section 2) -/

/-- R142: `FreqOf` is the exact product, rounded down to a multiple of 2^-14 and reduced modulo 2^32; and (R160) stepping a phase
by its unsigned pattern is stepping it by its signed value, modulo one cycle. -/
def Obligations.FrequencyIsTheRoundedProduct : Prop :=
  ∀ (c : Q214) (k : Freq) (p : Phase),
    ((freqOf c k).toNat : Int) = ⌊((c.toInt * k.toInt : Int) : ℚ) / 2 ^ 14⌋ % 2 ^ 32 ∧
    ((phaseStep p (freqOf c k)).toNat : Int) = (p.toNat + ⌊((c.toInt * k.toInt : Int) : ℚ) / 2 ^ 14⌋) % 2 ^ 32

/-- R143: each lane is the exact product rounded down, plus the offset, saturated to 16 bits; I is `e[15:0]` and Q is `e[31:16]`. -/
def Obligations.OutputLanesSaturate : Prop :=
  ∀ (sI sQ amp offi offq : Q214),
    let e := outOf (sI, sQ) amp offi offq
    (e.extractLsb' 0 16).toInt =
      max (-32768) (min 32767 (⌊((sI.toInt * amp.toInt : Int) : ℚ) / 2 ^ 14⌋ + offi.toInt)) ∧
    (e.extractLsb' 16 16).toInt =
      max (-32768) (min 32767 (⌊((sQ.toInt * amp.toInt : Int) : ℚ) / 2 ^ 14⌋ + offq.toInt))

/-- R144: `PTS_default` is 16384 times the cosine and the sine of the phase truncated to 1/4096 cycle, each rounded to the
nearest integer. It ties the tabulated values of R171 to the formula. -/
def Obligations.DefaultPtsIsTheRoundedQuadrature : Prop :=
  ∀ p : Phase,
    let j : ℕ := (p.extractLsb' 20 12).toNat
    (pts .quadrature p).1.toInt = round (16384 * Real.cos (2 * Real.pi * j / 4096)) ∧
    (pts .quadrature p).2.toInt = round (16384 * Real.sin (2 * Real.pi * j / 4096))

/-- R144: both parts lie in [-16384, 16384], and the phase bits 19:0 do not affect them; so a quarter turn swaps the parts (R171). -/
def Obligations.DefaultPtsRangeAndQuarterTurn : Prop :=
  ∀ p q : Phase,
    (-16384 ≤ (pts .quadrature p).1.toInt ∧ (pts .quadrature p).1.toInt ≤ 16384) ∧
    (-16384 ≤ (pts .quadrature p).2.toInt ∧ (pts .quadrature p).2.toInt ≤ 16384) ∧
    (p.extractLsb' 20 12 = q.extractLsb' 20 12 → pts .quadrature p = pts .quadrature q) ∧
    (pts .quadrature (p + 0x40000000)).1.toInt = -(pts .quadrature p).2.toInt ∧
    (pts .quadrature (p + 0x40000000)).2.toInt = (pts .quadrature p).1.toInt

/-- R7, R167: `PTS` is any total function of the 32-bit phase. A total table gives entry `p[31:32-bits]`, which it has; and for every
function there is a build with that `PTS`, legal where the build given was (tables are the model's form of it: log entry 2,
DESIGN CHOICE). -/
def Obligations.EveryTotalFunctionIsSomePts : Prop :=
  (∀ (bits : Nat) (entries : List (Q214 × Q214)) (p : Phase), (PtsChoice.table bits entries).total = true →
    entries[p.toNat / 2 ^ (32 - bits)]? = some (pts (.table bits entries) p)) ∧
  ∀ (f : Phase → Q214 × Q214) (b : Build), b.Legal →
    ∃ choice, ({ b with pts := choice } : Build).Legal ∧ ∀ p, pts choice p = f p

/-! ## OSC: osc.process (42_oscillator.md sections 5 and 6) -/

/-- R160 (with R161, R163, R168 and R170), first clause: `osc.process` within `DEPTH` whose control samples `cs` are written. The entries, the
phase and the frequency are those of R160's loop (`streamOut`, `streamPhase`, `streamFreq`), the flags and the response
as the rule gives them, and nothing else changes. It holds whether or not OSC_FINISHED is set, and for `n = 0`.
Second clause: longer windows are WINDOW_RANGE. Third: a step 3 on an unwritten entry is `UNINIT_IN(k)`
(log entry 7, DEDUCED). Fourth: reserved bits. -/
def Obligations.ProcessRunsTheKernel : Prop :=
  (∀ (s : State) (ni no : BitVec 16) (eoi : Bool) (cs : List Q214),
    ni.toNat ≤ s.build.depth → no.toNat ≤ s.build.depth → cs.length = min ni.toNat no.toNat → HoldsIn s cs →
    let n := BitVec.ofNat 16 (min ni.toNat no.toNat)
    let done := s.osc.finished || (eoi && decide (ni.toNat < no.toNat))
    decode s.build (0x40#8 ++ (0#23 ++ BitVec.ofBool eoi) ++ (no ++ ni)) = some (.oscProcess ni no eoi) ∧
    ∃ t, exec (.oscProcess ni no eoi) s = .next t ∧
      Responds s t (0#8 ++ (0#23 ++ BitVec.ofBool done) ++ (n ++ n)) ∧
      t.osc = { s.osc with phase := streamPhase s.osc.coeff s.osc.phase cs, freq := streamFreq s.osc.coeff s.osc.freq cs,
                           started := true, finished := done } ∧
      t.bx = s.bx ∧ t.sr = s.sr ∧ t.inWin = s.inWin ∧
      (∀ k (h : k < (streamOut s.build s.osc s.osc.phase cs).length),
        t.outWin.read k = some (streamOut s.build s.osc s.osc.phase cs)[k]) ∧
      (∀ k, cs.length ≤ k → t.outWin.read k = s.outWin.read k)) ∧
  (∀ (s : State) (ni no : BitVec 16) (eoi : Bool), s.build.depth < ni.toNat ∨ s.build.depth < no.toNat →
    ∃ t, exec (.oscProcess ni no eoi) s = .next t ∧ Responds s t 0x0300000000000000 ∧ t.arch = s.arch) ∧
  (∀ (s : State) (ni no : BitVec 16) (eoi : Bool) (k : Nat),
    ni.toNat ≤ s.build.depth → no.toNat ≤ s.build.depth → k < min ni.toNat no.toNat →
    s.inWin.read k = none → (∀ j < k, s.inWin.read j ≠ none) →
    exec (.oscProcess ni no eoi) s = .fault (.uninitIn k)) ∧
  (∀ (c : Word) (s : State), opcField c = 0x40 → 2 ≤ (aField c).toNat → AnsweredIllegal c s)

/-- R54: the frame of `osc.process`, from whatever state it answers: it touches no IN entry, no OUT entry outside `0 .. n-1`, no
register of BX or SR and no configuration register. -/
def Obligations.ProcessFrame : Prop :=
  ∀ (s t : State) (ni no : BitVec 16) (eoi : Bool), exec (.oscProcess ni no eoi) s = .next t →
    t.bx = s.bx ∧ t.sr = s.sr ∧ t.inWin = s.inWin ∧
    t.osc.amp = s.osc.amp ∧ t.osc.offi = s.osc.offi ∧ t.osc.offq = s.osc.offq ∧ t.osc.coeff = s.osc.coeff ∧
    ∀ k, min ni.toNat no.toNat ≤ k → t.outWin.read k = s.outWin.read k

/-- R57: an accepted `osc.process` that would read an unwritten IN entry stops with `UNINIT_IN(k)` for the first one; a host read
of an unwritten entry takes a free value, a fresh one each time, and leaves the entry unwritten. The count of draws is the
model's own (log entries 6 and 20, DESIGN CHOICE); on the fault, log entry 7, DEDUCED. -/
def Obligations.UnwrittenEntries : Prop :=
  (∀ (s : State) (ni no : BitVec 16) (eoi : Bool) (k : Nat),
    ni.toNat ≤ s.build.depth → no.toNat ≤ s.build.depth → k < min ni.toNat no.toNat →
    s.inWin.read k = none → (∀ j < k, s.inWin.read j ≠ none) →
    exec (.oscProcess ni no eoi) s = .fault (.uninitIn k)) ∧
  (∀ (s : State) (a : Index) (rest : List HostTurn), s.cmdPort = none → a.toNat < s.build.depth →
    (s.host = .act (.readIn a) :: rest → s.inWin.read a.toNat = none →
      step s = .next { s with host := rest, draws := s.draws + 1,
                              seen := s.seen ++ [.inEntry a (Config.unwrittenIn s.draws)] }) ∧
    (s.host = .act (.readOut a) :: rest → s.outWin.read a.toNat = none →
      step s = .next { s with host := rest, draws := s.draws + 1,
                              seen := s.seen ++ [.outEntry a (Config.unwrittenOut s.draws)] }))

/-- R162: a window longer than `DEPTH` is answered WINDOW_RANGE and nothing changes; at the default `DEPTH` that cannot occur; and
`ni = DEPTH` and `no = DEPTH` are legal. -/
def Obligations.WindowRangeIsRefusedWhole : Prop :=
  ∀ (s : State) (ni no : BitVec 16) (eoi : Bool),
    (s.build.depth < ni.toNat ∨ s.build.depth < no.toNat →
      ∃ t, exec (.oscProcess ni no eoi) s = .next t ∧ Responds s t 0x0300000000000000 ∧ t.arch = s.arch) ∧
    (s.build.depth = 65536 → ¬ (s.build.depth < ni.toNat ∨ s.build.depth < no.toNat)) ∧
    (ni.toNat ≤ s.build.depth → no.toNat ≤ s.build.depth → (∀ k < min ni.toNat no.toNat, s.inWin.read k ≠ none) →
      ∃ t r, exec (.oscProcess ni no eoi) s = .next t ∧ Responds s t r ∧ opcField r = 0)

/-- R161: OSC_FINISHED after an accepted `osc.process` is set exactly when it was set before or `eoi == 1 and n == ni and n < no`,
which is `eoi == 1 and ni < no`; the DONE bit says so, and CONSUMED = PRODUCED = n (R163). -/
def Obligations.TerminationAndCounts : Prop :=
  ∀ (s t : State) (ni no : BitVec 16) (eoi : Bool), ni.toNat ≤ s.build.depth → no.toNat ≤ s.build.depth →
    exec (.oscProcess ni no eoi) s = .next t →
    let n := min ni.toNat no.toNat
    (t.osc.finished = true ↔ s.osc.finished = true ∨ (eoi = true ∧ n = ni.toNat ∧ n < no.toNat)) ∧
    ((eoi = true ∧ n = ni.toNat ∧ n < no.toNat) ↔ (eoi = true ∧ ni.toNat < no.toNat)) ∧
    ∃ r, Responds s t r ∧ ((aField r).getLsbD 0 = true ↔ t.osc.finished = true) ∧
      ((dField r).extractLsb' 0 16).toNat = n ∧ ((dField r).extractLsb' 16 16).toNat = n

/-- R164: output `m` depends on the control samples before `m` and never on sample `m` or a later one. -/
def Obligations.OutputDependsOnEarlierSamplesOnly : Prop :=
  ∀ (s s' t t' : State) (ni no ni' no' : BitVec 16) (eoi eoi' : Bool) (m : Nat),
    s.build = s'.build → s.osc = s'.osc → (∀ k < m, s.inWin.read k = s'.inWin.read k) →
    exec (.oscProcess ni no eoi) s = .next t → exec (.oscProcess ni' no' eoi') s' = .next t' →
    ni.toNat ≤ s.build.depth → no.toNat ≤ s.build.depth → ni'.toNat ≤ s.build.depth → no'.toNat ≤ s.build.depth →
    ∀ k ≤ m, k < min ni.toNat no.toNat → k < min ni'.toNat no'.toNat → t.outWin.read k = t'.outWin.read k

/-- R165, the windowing invariance law: cut a control stream into accepted windows in any way, each with its own `ni`, `no` and
`eoi`; the entries written, taken in order, depend on the configuration, the initial phase and the samples consumed alone: they
are those of the whole stream (`streamOut`), and so is the phase left. -/
def Obligations.WindowingDoesNotChangeTheStream : Prop :=
  ∀ (s : State) (windows : List Window), (∀ w ∈ windows, w.fits s.build) →
    let cs := windows.flatMap Window.samples
    ∃ t, runWindows windows s = some (streamOut s.build s.osc s.osc.phase cs, t) ∧
      t.osc.phase = streamPhase s.osc.coeff s.osc.phase cs

/-- R166, the zero-coefficient law: with OSC_COEFF = 0 every frequency is 0 (OSC_FREQ is 0 once a sample is processed), the phase
never moves and every entry written is the same; with the reset configuration and `PTS_default` it is 0x00004000. -/
def Obligations.ZeroCoefficientHoldsThePhase : Prop :=
  ∀ (s : State) (ni no : BitVec 16) (eoi : Bool) (cs : List Q214),
    s.osc.coeff = 0 → ni.toNat ≤ s.build.depth → no.toNat ≤ s.build.depth →
    cs.length = min ni.toNat no.toNat → HoldsIn s cs →
    ∃ t, exec (.oscProcess ni no eoi) s = .next t ∧ t.osc.phase = s.osc.phase ∧ (0 < cs.length → t.osc.freq = 0) ∧
      (∀ k < cs.length, t.outWin.read k =
        some (outOf (pts s.build.pts s.osc.phase) s.osc.amp s.osc.offi s.osc.offq)) ∧
      (s.build.pts = .quadrature → s.osc = Osc.reset → ∀ k < cs.length, t.outWin.read k = some 0x00004000)

/-- R167: `PTS` enters at step 1 only. Change the phase-to-sample function, and every command stops or answers alike, with the
same response, registers, flags and IN window; the OUT entries written may differ, not which are written. That the
choices of `PTS` take in every total function is EveryTotalFunctionIsSomePts (log entry 2, DESIGN CHOICE). -/
def Obligations.PtsAffectsOutputEntriesOnly : Prop :=
  ∀ (i : Instr) (s : State) (p : PtsChoice),
    let s' := { s with build := { s.build with pts := p } }
    (∃ t t', exec i s = .next t ∧ exec i s' = .next t' ∧
      { t' with build := s.build, outWin := t.outWin } = t ∧
      t'.outWin.map Prod.fst = t.outWin.map Prod.fst) ∨
    ∃ k, exec i s = .fault (.uninitIn k) ∧ exec i s' = .fault (.uninitIn k)

/-- R30: the value OSC_FREQ holds before an `osc.process` never enters a phase step. Change it, and the command stops or answers
alike, with the same state after it, but for OSC_FREQ itself when no sample is processed. -/
def Obligations.EarlierFrequencyNeverStepsThePhase : Prop :=
  ∀ (s : State) (f : Freq) (ni no : BitVec 16) (eoi : Bool),
    let s' := { s with osc := { s.osc with freq := f } }
    (∃ t t', exec (.oscProcess ni no eoi) s = .next t ∧ exec (.oscProcess ni no eoi) s' = .next t' ∧
      { t' with osc := { t'.osc with freq := t.osc.freq } } = t ∧
      (ni.toNat ≤ s.build.depth → no.toNat ≤ s.build.depth → 0 < min ni.toNat no.toNat → t'.osc.freq = t.osc.freq)) ∨
    ∃ k, exec (.oscProcess ni no eoi) s = .fault (.uninitIn k) ∧ exec (.oscProcess ni no eoi) s' = .fault (.uninitIn k)

/-! ## The windows and the host (20_memory.md) -/

/-- R55: the four window operations with no command outstanding. A write changes only the entry it names; a read of a written
entry returns it and changes nothing. The host's record, which the value returned joins, and the host's turn, which is used up,
are the model's own (log entries 5 and 4, DESIGN CHOICE). -/
def Obligations.HostWindowOperations : Prop :=
  ∀ (s : State) (a : Index) (rest : List HostTurn), s.cmdPort = none → a.toNat < s.build.depth →
    (∀ v, s.host = .act (.writeIn a v) :: rest →
      ∃ t, step s = .next t ∧ { t with inWin := s.inWin } = { s with host := rest } ∧
        ∀ k, t.inWin.read k = if k = a.toNat then some v else s.inWin.read k) ∧
    (∀ v, s.host = .act (.writeOut a v) :: rest →
      ∃ t, step s = .next t ∧ { t with outWin := s.outWin } = { s with host := rest } ∧
        ∀ k, t.outWin.read k = if k = a.toNat then some v else s.outWin.read k) ∧
    (∀ v, s.host = .act (.readIn a) :: rest → s.inWin.read a.toNat = some v →
      step s = .next { s with host := rest, seen := s.seen ++ [.inEntry a v] }) ∧
    (∀ v, s.host = .act (.readOut a) :: rest → s.outWin.read a.toNat = some v →
      step s = .next { s with host := rest, seen := s.seen ++ [.outEntry a v] })

/-- R58, R230, R201: a window operation at `a >= DEPTH` has no move (at the default `DEPTH` there is none such), and neither has a
command or a window operation while a command is outstanding; otherwise writing a command word makes it outstanding and changes
nothing else (R70). Where both refusals apply the model names HOST_OVERLAP (log entry 8, DESIGN CHOICE); the host's turn is its
own (log entry 4, DESIGN CHOICE). -/
def Obligations.HostMovesOutsideItsDuties : Prop :=
  ∀ (s : State) (rest : List HostTurn),
    (∀ (a : Index) (op : HostOp), s.cmdPort = none → s.build.depth ≤ a.toNat → s.host = .act op :: rest →
      (op = .readIn a ∨ op = .readOut a ∨ (∃ v, op = .writeIn a v) ∨ ∃ v, op = .writeOut a v) →
      step s = .refused (.hostIndex a.toNat)) ∧
    (∀ a : Index, s.build.depth = 65536 → ¬ s.build.depth ≤ a.toNat) ∧
    (∀ op c, s.cmdPort = some c → s.host = .act op :: rest → op ≠ .rst → step s = .refused .hostOverlap) ∧
    (∀ c, s.cmdPort = none → s.host = .act (.command c) :: rest →
      step s = .next { s with host := rest, cmdPort := some c })

/-- R56: after reset an IN entry is written only by `HostWriteIn`, and an OUT entry only by `HostWriteOut` or by `osc.process`;
the block never writes IN. Who moves is read off the host's plan (log entry 4, DESIGN CHOICE). -/
def Obligations.WhoWritesTheWindows : Prop :=
  ∀ s t : State, step s = .next t → NotResetNext s →
    (∀ k, t.inWin.read k ≠ s.inWin.read k → ∃ a v rest, s.host = .act (.writeIn a v) :: rest ∧ a.toNat = k) ∧
    (∀ k, t.outWin.read k ≠ s.outWin.read k →
      (∃ a v rest, s.host = .act (.writeOut a v) :: rest ∧ a.toNat = k) ∨
      HostWaits s ∧ ∃ c ni no eoi, s.cmdPort = some c ∧ decode s.build c = some (.oscProcess ni no eoi) ∧
        k < min ni.toNat no.toNat)
end

