-- ==== Sys2Proof/Laws/Decode.lean ====
section
/-! SUPPORT. The fields of a word put together from fields, and the reserved-bit test as a bound. -/

namespace Sys2Proof

/-- `v[N-1:k] == 0` says that `v` fits `k` bits. -/
@[simp] theorem clearAbove_iff {n : Nat} (k : Nat) (v : BitVec n) : clearAbove k v = true ↔ v.toNat < 2 ^ k := by
  rw [clearAbove, beq_iff_eq, ← BitVec.toNat_inj, BitVec.toNat_ushiftRight, Nat.shiftRight_eq_div_pow]
  simp [Nat.div_eq_zero_iff]

theorem opcField_fields (o : BitVec 8) (a : BitVec 24) (d : BitVec 32) : opcField (o ++ a ++ d) = o := by
  apply BitVec.eq_of_getLsbD_eq
  intro i hi
  simp only [opcField, BitVec.getLsbD_extractLsb', BitVec.getLsbD_append]
  rw [if_neg (by omega), if_neg (by omega), show 56 + i - 32 - 24 = i by omega]
  simp [hi]

theorem aField_fields (o : BitVec 8) (a : BitVec 24) (d : BitVec 32) : aField (o ++ a ++ d) = a := by
  apply BitVec.eq_of_getLsbD_eq
  intro i hi
  simp only [aField, BitVec.getLsbD_extractLsb', BitVec.getLsbD_append]
  rw [if_neg (by omega), if_pos (by omega), show 32 + i - 32 = i by omega]
  simp [hi]

theorem dField_fields (o : BitVec 8) (a : BitVec 24) (d : BitVec 32) : dField (o ++ a ++ d) = d := by
  apply BitVec.eq_of_getLsbD_eq
  intro i hi
  simp only [dField, BitVec.getLsbD_extractLsb', BitVec.getLsbD_append]
  rw [if_pos (by omega), Nat.zero_add]
  simp [hi]

/-- "Three fields cover all 64 bits" (R71). -/
theorem fields_cover (c : Word) : opcField c ++ aField c ++ dField c = c := by
  apply BitVec.eq_of_getLsbD_eq
  intro i hi
  simp only [opcField, aField, dField, BitVec.getLsbD_extractLsb', BitVec.getLsbD_append]
  split_ifs with h₁ h₂
  · simp [h₁]
  · simp only [show i - 32 < 24 by omega, decide_true, Bool.true_and]; congr 1; omega
  · simp only [show i - 32 - 24 < 8 by omega, decide_true, Bool.true_and]; congr 1; omega

/-- What the decoder makes of a word given by its fields. -/
theorem decode_fields (b : Build) (o : BitVec 8) (a : BitVec 24) (d : BitVec 32) :
    decode b (o ++ a ++ d) = decodeFields b o a d := by
  rw [decode, opcField_fields, aField_fields, dField_fields]

end Sys2Proof
end

