-- ==== Sys2Proof/Laws/Memory.lean ====
section
/-! SUPPORT. The window memories: a read after a write, and that a write keeps the canonical form. -/

namespace Sys2Proof.Machine

variable {α : Type}

@[simp] theorem read_nil (k : Nat) : Memory.read ([] : Memory α) k = none := rfl

@[simp] theorem read_cons (j : Nat) (v : α) (m : Memory α) (k : Nat) :
    Memory.read ((j, v) :: m) k = if j = k then some v else Memory.read m k := rfl

/-- The basic law of a window (R67): a read gives the last write to that entry, and a write leaves every other entry alone. -/
theorem read_write (m : Memory α) (k j : Nat) (v : α) :
    (m.write k v).read j = if j = k then some v else m.read j := by
  induction m with
  | nil => by_cases h : k = j <;> simp [Memory.write, h, eq_comm]
  | cons e m ih =>
    obtain ⟨i, u⟩ := e
    rw [Memory.write]
    split_ifs with h₁ h₂ <;> simp only [read_cons, ih] <;> split_ifs <;> first | rfl | omega

@[simp] theorem read_write_same (m : Memory α) (k : Nat) (v : α) : (m.write k v).read k = some v := by
  simp [read_write]

theorem read_write_other (m : Memory α) {k j : Nat} (v : α) (h : j ≠ k) : (m.write k v).read j = m.read j := by
  simp [read_write, h]

/-- The listed indices after a write: the old ones and the one written. -/
theorem mem_write {m : Memory α} {k : Nat} {v : α} {e : Nat × α} (h : e ∈ m.write k v) : e = (k, v) ∨ e ∈ m := by
  induction m with
  | nil => exact .inl (by simpa [Memory.write] using h)
  | cons d m ih =>
    obtain ⟨i, u⟩ := d
    rw [Memory.write] at h
    split_ifs at h with h₁ h₂
    · simpa using h
    · simp only [List.mem_cons] at h ⊢
      exact h.imp_right .inr
    · simp only [List.mem_cons] at h ⊢
      rcases h with h | h
      · exact .inr (.inl h)
      · exact (ih h).imp_right .inr

/-- A write keeps the canonical form. -/
theorem write_wf {m : Memory α} (k : Nat) (v : α) (h : m.wf) : (m.write k v).wf := by
  induction m with
  | nil => simp [Memory.write, Memory.wf]
  | cons d m ih =>
    obtain ⟨i, u⟩ := d
    obtain ⟨hi, hm⟩ := List.pairwise_cons.1 h
    rw [Memory.write]
    split_ifs with h₁ h₂
    · refine List.pairwise_cons.2 ⟨fun a ha => ?_, h⟩
      rcases List.mem_cons.1 ha with rfl | ha
      · exact h₁
      · exact h₁.trans (hi a ha)
    · subst h₂
      exact List.pairwise_cons.2 ⟨hi, hm⟩
    · refine List.pairwise_cons.2 ⟨fun a ha => ?_, ih hm⟩
      obtain ⟨e, he, rfl⟩ := List.mem_map.1 ha
      rcases mem_write he with rfl | he
      · simp only; omega
      · exact hi _ (List.mem_map.2 ⟨e, he, rfl⟩)

/-- A write at an index of the window keeps every listed index in the window. -/
theorem write_within {m : Memory α} {d k : Nat} (v : α) (hk : k < d) (h : m.within d) : (m.write k v).within d := by
  intro e he
  rcases mem_write he with rfl | he
  · exact hk
  · exact h e he

/-- Which entries are listed after a write does not depend on the value. -/
theorem keys_write {β : Type} (m : Memory α) (m' : Memory β) (k : Nat) (v : α) (w : β)
    (h : m.map Prod.fst = m'.map Prod.fst) : (m.write k v).map Prod.fst = (m'.write k w).map Prod.fst := by
  induction m generalizing m' with
  | nil => cases m' <;> simp_all [Memory.write]
  | cons d m ih =>
    obtain ⟨i, u⟩ := d
    cases m' with
    | nil => simp at h
    | cons d' m' =>
      obtain ⟨i', u'⟩ := d'
      simp only [List.map_cons, List.cons.injEq] at h
      obtain ⟨rfl, h⟩ := h
      simp only [Memory.write]
      split_ifs <;> simp [h, ih m' h]

/-- In canonical form, equal reads are equal memories. -/
theorem ext_of_wf {m m' : Memory α} (h : m.wf) (h' : m'.wf) (hr : ∀ k, m.read k = m'.read k) : m = m' := by
  have below : ∀ {m : Memory α} {i : Nat}, (∀ a ∈ m.map Prod.fst, i < a) → ∀ k ≤ i, m.read k = none := by
    intro m i hm k hk
    induction m with
    | nil => rfl
    | cons d m ih =>
      obtain ⟨j, u⟩ := d
      have hj : i < j := hm j (by simp)
      rw [read_cons, if_neg (by omega)]
      exact ih fun a ha => hm a (List.mem_cons_of_mem _ ha)
  induction m generalizing m' with
  | nil =>
    cases m' with
    | nil => rfl
    | cons d m' =>
      obtain ⟨j, u⟩ := d
      have := hr j
      simp at this
  | cons d m ih =>
    obtain ⟨i, u⟩ := d
    obtain ⟨hi, hm⟩ := List.pairwise_cons.1 h
    cases m' with
    | nil => have := hr i; simp at this
    | cons d' m' =>
      obtain ⟨i', u'⟩ := d'
      obtain ⟨hi', hm'⟩ := List.pairwise_cons.1 h'
      rcases lt_trichotomy i i' with hlt | rfl | hlt
      · have := hr i
        rw [read_cons, read_cons, if_pos rfl, if_neg (by omega), below hi' i hlt.le] at this
        simp at this
      · have hu := hr i
        simp only [read_cons, if_true, Option.some.injEq] at hu
        subst hu
        refine congrArg _ (ih hm hm' fun k => ?_)
        by_cases hk : k ≤ i
        · rw [below hi k hk, below hi' k hk]
        · have := hr k
          simpa [show i ≠ k by omega] using this
      · have := hr i'
        rw [read_cons, read_cons, if_pos rfl, if_neg (by omega), below hi i' hlt.le] at this
        simp at this

end Sys2Proof.Machine
end

