-- ==== Sys2Proof/Laws/State.lean ====
section
/-! SUPPORT. Field lemmas of the named state updates: what each update does to each field, so that no later proof unfolds one. -/

namespace Sys2Proof.Machine

/-! ### `State.answer` -/

@[simp] theorem answer_build (s : State) (st aux data) : (s.answer st aux data).build = s.build := rfl
@[simp] theorem answer_bx (s : State) (st aux data) : (s.answer st aux data).bx = s.bx := rfl
@[simp] theorem answer_sr (s : State) (st aux data) : (s.answer st aux data).sr = s.sr := rfl
@[simp] theorem answer_osc (s : State) (st aux data) : (s.answer st aux data).osc = s.osc := rfl
@[simp] theorem answer_inWin (s : State) (st aux data) : (s.answer st aux data).inWin = s.inWin := rfl
@[simp] theorem answer_outWin (s : State) (st aux data) : (s.answer st aux data).outWin = s.outWin := rfl
@[simp] theorem answer_cmdPort (s : State) (st aux data) : (s.answer st aux data).cmdPort = none := rfl
@[simp] theorem answer_host (s : State) (st aux data) : (s.answer st aux data).host = s.host := rfl
@[simp] theorem answer_seen (s : State) (st aux data) :
    (s.answer st aux data).seen = s.seen ++ [.response (respond st aux data)] := rfl
@[simp] theorem answer_draws (s : State) (st aux data) : (s.answer st aux data).draws = s.draws := rfl
@[simp] theorem answer_arch (s : State) (st aux data) : (s.answer st aux data).arch = s.arch := rfl
theorem raise_eq_answer (s : State) (st : Status) : s.raise st = s.answer st 0 0 := rfl

/-! ### `State.resetBlock` -/

@[simp] theorem resetBlock_build (s : State) : s.resetBlock.build = s.build := rfl
@[simp] theorem resetBlock_bx (s : State) : s.resetBlock.bx = Bx.reset := rfl
@[simp] theorem resetBlock_sr (s : State) : s.resetBlock.sr = Sr.reset := rfl
@[simp] theorem resetBlock_osc (s : State) : s.resetBlock.osc = Osc.reset := rfl
@[simp] theorem resetBlock_inWin (s : State) : s.resetBlock.inWin = [] := rfl
@[simp] theorem resetBlock_outWin (s : State) : s.resetBlock.outWin = [] := rfl
@[simp] theorem resetBlock_cmdPort (s : State) : s.resetBlock.cmdPort = none := rfl
@[simp] theorem resetBlock_host (s : State) : s.resetBlock.host = s.host := rfl
@[simp] theorem resetBlock_seen (s : State) : s.resetBlock.seen = s.seen := rfl
@[simp] theorem resetBlock_draws (s : State) : s.resetBlock.draws = s.draws := rfl

/-! ### The OSC updates -/

@[simp] theorem afterSample_phase (o : Osc) (c) : (o.afterSample c).phase = phaseStep o.phase (freqOf c o.coeff) := rfl
@[simp] theorem afterSample_freq (o : Osc) (c) : (o.afterSample c).freq = freqOf c o.coeff := rfl
@[simp] theorem afterSample_amp (o : Osc) (c) : (o.afterSample c).amp = o.amp := rfl
@[simp] theorem afterSample_offi (o : Osc) (c) : (o.afterSample c).offi = o.offi := rfl
@[simp] theorem afterSample_offq (o : Osc) (c) : (o.afterSample c).offq = o.offq := rfl
@[simp] theorem afterSample_coeff (o : Osc) (c) : (o.afterSample c).coeff = o.coeff := rfl
@[simp] theorem afterSample_started (o : Osc) (c) : (o.afterSample c).started = o.started := rfl
@[simp] theorem afterSample_finished (o : Osc) (c) : (o.afterSample c).finished = o.finished := rfl

@[simp] theorem afterProcess_phase (o : Osc) (ni no eoi) : (o.afterProcess ni no eoi).phase = o.phase := rfl
@[simp] theorem afterProcess_freq (o : Osc) (ni no eoi) : (o.afterProcess ni no eoi).freq = o.freq := rfl
@[simp] theorem afterProcess_amp (o : Osc) (ni no eoi) : (o.afterProcess ni no eoi).amp = o.amp := rfl
@[simp] theorem afterProcess_offi (o : Osc) (ni no eoi) : (o.afterProcess ni no eoi).offi = o.offi := rfl
@[simp] theorem afterProcess_offq (o : Osc) (ni no eoi) : (o.afterProcess ni no eoi).offq = o.offq := rfl
@[simp] theorem afterProcess_coeff (o : Osc) (ni no eoi) : (o.afterProcess ni no eoi).coeff = o.coeff := rfl
@[simp] theorem afterProcess_started (o : Osc) (ni no eoi) : (o.afterProcess ni no eoi).started = true := rfl
@[simp] theorem afterProcess_finished (o : Osc) (ni no eoi) :
    (o.afterProcess ni no eoi).finished = (o.finished || terminates ni no eoi) := rfl

/-! ### `finishProcess` -/

@[simp] theorem finishProcess_build (s : State) (ni no eoi) : (finishProcess ni no eoi s).build = s.build := rfl
@[simp] theorem finishProcess_bx (s : State) (ni no eoi) : (finishProcess ni no eoi s).bx = s.bx := rfl
@[simp] theorem finishProcess_sr (s : State) (ni no eoi) : (finishProcess ni no eoi s).sr = s.sr := rfl
@[simp] theorem finishProcess_osc (s : State) (ni no eoi) :
    (finishProcess ni no eoi s).osc = s.osc.afterProcess ni no eoi := rfl
@[simp] theorem finishProcess_inWin (s : State) (ni no eoi) : (finishProcess ni no eoi s).inWin = s.inWin := rfl
@[simp] theorem finishProcess_outWin (s : State) (ni no eoi) : (finishProcess ni no eoi s).outWin = s.outWin := rfl
@[simp] theorem finishProcess_cmdPort (s : State) (ni no eoi) : (finishProcess ni no eoi s).cmdPort = none := rfl
@[simp] theorem finishProcess_host (s : State) (ni no eoi) : (finishProcess ni no eoi s).host = s.host := rfl
@[simp] theorem finishProcess_draws (s : State) (ni no eoi) : (finishProcess ni no eoi s).draws = s.draws := rfl
theorem finishProcess_seen (s : State) (ni no eoi) :
    (finishProcess ni no eoi s).seen = s.seen ++ [.response (respond .ok
      (flagBits 24 (s.osc.finished || terminates ni no eoi))
      (low 16 (min ni.toNat no.toNat : Nat) ++ low 16 (min ni.toNat no.toNat : Nat)))] := rfl

/-! ### `State.withFetchWord` and the architectural state -/

@[simp] theorem withFetchWord_cmdPort (s : State) (nbits w : Nat) :
    (s.withFetchWord nbits w).cmdPort = some (BitVec.ofNat 64 (w % 2 ^ nbits)) := rfl
@[simp] theorem withFetchWord_host (s : State) (nbits w : Nat) : (s.withFetchWord nbits w).host = .wait :: s.host := rfl
@[simp] theorem withFetchWord_build (s : State) (nbits w : Nat) : (s.withFetchWord nbits w).build = s.build := rfl
@[simp] theorem withFetchWord_arch (s : State) (nbits w : Nat) : (s.withFetchWord nbits w).arch = s.arch := rfl

@[simp] theorem arch_bx (s : State) : s.arch.bx = s.bx := rfl
@[simp] theorem arch_sr (s : State) : s.arch.sr = s.sr := rfl
@[simp] theorem arch_osc (s : State) : s.arch.osc = s.osc := rfl
@[simp] theorem arch_inWin (s : State) : s.arch.inWin = s.inWin := rfl
@[simp] theorem arch_outWin (s : State) : s.arch.outWin = s.outWin := rfl

/-- Every answer is a response in the sense of `Responds`. -/
theorem responds_answer (s : State) (st aux data) : Responds s (s.answer st aux data) (respond st aux data) :=
  ⟨rfl, rfl, rfl, rfl, rfl⟩

end Sys2Proof.Machine
end

