-- ==== Sys2Proof/Laws/Ops.lean ====
section
/-! SUPPORT. What each shared operation can do, said once: the response word, the configuration lock, the sample loop, the host's turn. -/

namespace Sys2Proof.Machine

/-! ### The response word -/

theorem opcField_respond (st aux data) : opcField (respond st aux data) = st.code := opcField_fields _ _ _
theorem aField_respond (st aux data) : aField (respond st aux data) = aux := aField_fields _ _ _
theorem dField_respond (st aux data) : dField (respond st aux data) = data := dField_fields _ _ _

/-- A response is legal when it is OK or its AUX and DATA are 0 (R75, R191). -/
theorem legalResponse_ok (aux data) : legalResponse (respond .ok aux data) = true := by
  have h : (respond .ok aux data).extractLsb' 56 8 = 0 := opcField_respond _ _ _
  simp [legalResponse, h]

theorem legalResponse_raise (st : Status) : legalResponse (respond st 0 0) = true := by
  cases st <;> decide

/-! ### Widths -/

theorem zext_eq_setWidth {k : Nat} (n : Nat) (v : BitVec k) : zext n v = v.setWidth n := by
  apply BitVec.eq_of_toNat_eq
  simp [zext]

/-- A narrow register's value, where the register fits its container (log entry 3, DESIGN CHOICE). -/
theorem lowBits_toNat {n k : Nat} (x : Nat) (h : k ≤ n) : (lowBits n k x).toNat = x % 2 ^ k := by
  rw [lowBits, BitVec.toNat_ofNat]
  exact Nat.mod_eq_of_lt (lt_of_lt_of_le (Nat.mod_lt _ (by positivity)) (Nat.pow_le_pow_right (by norm_num) h))

/-- Cutting a pattern to a width it fits changes nothing. -/
theorem lowBits_of_fits {n k : Nat} (v : BitVec n) (h : v.toNat < 2 ^ k) : lowBits n k v.toNat = v := by
  simp [lowBits, Nat.mod_eq_of_lt h]

/-! ### The two pulls -/

theorem execBxPull_exhausted {s : State} (h : s.bx.rem.toNat = 0) : execBxPull s = .next (s.answer .ok 0 0) := if_pos h

theorem execBxPull_emits {s : State} (h : s.bx.rem.toNat ≠ 0) :
    execBxPull s = .next (State.answer
      { s with bx := { acc := lowBits 32 s.build.w (s.bx.acc.toNat * 2), rem := s.bx.rem - 1 } }
      .ok 1 (if s.bx.acc.getLsbD (s.build.w - 1) then 1 else 0)) := if_neg h

theorem execSrPull_exhausted {s : State} (h : s.sr.cnt.toNat = 0) : execSrPull s = .next (s.answer .ok 0 0) := if_pos h

theorem execSrPull_emits {s : State} (h : s.sr.cnt.toNat ≠ 0) :
    execSrPull s = .next (State.answer { s with sr := { s.sr with cnt := s.sr.cnt - 1 } } .ok 1 s.sr.val) := if_neg h

/-- A counter that is not 0 counts down by one. -/
theorem toNat_sub_one {n : Nat} (v : BitVec n) (hn : 0 < n) (h : v.toNat ≠ 0) : (v - 1#n).toNat = v.toNat - 1 := by
  have := v.isLt
  have h2 : 2 ≤ 2 ^ n := by simpa using Nat.pow_le_pow_right (n := 2) (by norm_num) hn
  rw [BitVec.toNat_sub, BitVec.toNat_ofNat, Nat.mod_eq_of_lt (by omega : 1 < 2 ^ n)]
  rw [show 2 ^ n - 1 + v.toNat = (v.toNat - 1) + 2 ^ n by omega, Nat.add_mod_right, Nat.mod_eq_of_lt (by omega)]

/-! ### The configuration lock -/

/-- A configuration write does one of two things (R145). -/
theorem configWrite_started {s : State} (h : s.osc.started = true) (o : Osc) :
    configWrite s o = s.raise .illegalState := by simp [configWrite, h]

theorem configWrite_construction {s : State} (h : s.osc.started = false) (o : Osc) :
    configWrite s o = { s with osc := o }.answer .ok 0 0 := by simp [configWrite, h]

theorem configWrite_cases (s : State) (o : Osc) :
    (s.osc.started = true ∧ configWrite s o = s.raise .illegalState) ∨
    (s.osc.started = false ∧ configWrite s o = { s with osc := o }.answer .ok 0 0) := by
  cases h : s.osc.started
  · exact .inr ⟨rfl, configWrite_construction h o⟩
  · exact .inl ⟨rfl, configWrite_started h o⟩

/-! ### The sample loop -/

/-- One turn on a written entry (R160). -/
theorem sampleStep_written {k : Nat} {s : State} {c : Q214} (h : s.inWin.read k = some c) :
    sampleStep k s = .next { s with outWin := s.outWin.write k (outEntryNow s), osc := s.osc.afterSample c } := by
  simp only [sampleStep, h]

/-- One turn on an unwritten entry (R57). -/
theorem sampleStep_unwritten {k : Nat} {s : State} (h : s.inWin.read k = none) :
    sampleStep k s = .fault (.uninitIn k) := by
  simp only [sampleStep, h]

/-- What the loop leaves alone. -/
structure LoopFrame (n k : Nat) (s t : State) : Prop where
  build : t.build = s.build
  bx : t.bx = s.bx
  sr : t.sr = s.sr
  inWin : t.inWin = s.inWin
  cmdPort : t.cmdPort = s.cmdPort
  host : t.host = s.host
  seen : t.seen = s.seen
  draws : t.draws = s.draws
  amp : t.osc.amp = s.osc.amp
  offi : t.osc.offi = s.osc.offi
  offq : t.osc.offq = s.osc.offq
  coeff : t.osc.coeff = s.osc.coeff
  started : t.osc.started = s.osc.started
  finished : t.osc.finished = s.osc.finished
  outRead : ∀ j, j < k ∨ k + n ≤ j → t.outWin.read j = s.outWin.read j

theorem LoopFrame.refl (k : Nat) (s : State) : LoopFrame 0 k s s :=
  ⟨rfl, rfl, rfl, rfl, rfl, rfl, rfl, rfl, rfl, rfl, rfl, rfl, rfl, rfl, fun _ _ => rfl⟩

/-- The loop answers, or stops at an unwritten entry in its range; it never refuses. -/
theorem sampleLoop_cases (n k : Nat) (s : State) :
    (∃ t, sampleLoop n k s = .next t ∧ LoopFrame n k s t ∧ ∀ j, k ≤ j → j < k + n → s.inWin.read j ≠ none) ∨
    ∃ j, k ≤ j ∧ j < k + n ∧ s.inWin.read j = none ∧ (∀ i, k ≤ i → i < j → s.inWin.read i ≠ none) ∧
      sampleLoop n k s = .fault (.uninitIn j) := by
  induction n generalizing k s with
  | zero => exact .inl ⟨s, rfl, LoopFrame.refl k s, fun j h h' => by omega⟩
  | succ n ih =>
    cases hk : s.inWin.read k with
    | none => exact .inr ⟨k, le_rfl, by omega, hk, fun i h h' => by omega,
        by simp only [sampleLoop, sampleStep_unwritten hk]⟩
    | some c =>
      rcases ih (k + 1) { s with outWin := s.outWin.write k (outEntryNow s), osc := s.osc.afterSample c } with
        ⟨t, ht, fr, hw⟩ | ⟨j, h₁, h₂, hj, hlt, hf⟩
      · refine .inl ⟨t, by simp only [sampleLoop, sampleStep_written hk, ht], ?_, fun j h h' => ?_⟩
        · exact ⟨fr.build, fr.bx, fr.sr, fr.inWin, fr.cmdPort, fr.host, fr.seen, fr.draws, fr.amp, fr.offi, fr.offq, fr.coeff,
            fr.started, fr.finished, fun j hj => (fr.outRead j (by omega)).trans (read_write_other _ _ (by omega))⟩
        · rcases Nat.eq_or_lt_of_le h with rfl | h
          · simp [hk]
          · exact hw j h (by omega)
      · refine .inr ⟨j, by omega, by omega, hj, fun i h h' => ?_, by simp only [sampleLoop, sampleStep_written hk, hf]⟩
        rcases Nat.eq_or_lt_of_le h with rfl | h
        · simp [hk]
        · exact hlt i h h'

@[simp] theorem streamOut_length (b : Build) (o : Osc) (p : Phase) (cs : List Q214) :
    (streamOut b o p cs).length = cs.length := by
  induction cs generalizing p with
  | nil => rfl
  | cons c cs ih => simp [streamOut, ih]

/-- The entries of a stream depend on the configuration registers and the phase given, not on OSC_PHASE and OSC_FREQ. -/
@[simp] theorem streamOut_afterSample (b : Build) (o : Osc) (c : Q214) (p : Phase) (cs : List Q214) :
    streamOut b (o.afterSample c) p cs = streamOut b o p cs := by
  induction cs generalizing p with
  | nil => rfl
  | cons d cs ih => simp only [streamOut, ih]; rfl

/-- What the loop does over written entries: R160's phases, frequencies and entries. -/
theorem sampleLoop_written (cs : List Q214) (k : Nat) (s : State)
    (h : ∀ i (hi : i < cs.length), s.inWin.read (k + i) = some cs[i]) :
    ∃ t, sampleLoop cs.length k s = .next t ∧ LoopFrame cs.length k s t ∧
      t.osc = { s.osc with phase := streamPhase s.osc.coeff s.osc.phase cs, freq := streamFreq s.osc.coeff s.osc.freq cs } ∧
      ∀ i (hi : i < (streamOut s.build s.osc s.osc.phase cs).length),
        t.outWin.read (k + i) = some (streamOut s.build s.osc s.osc.phase cs)[i] := by
  induction cs generalizing k s with
  | nil => exact ⟨s, rfl, LoopFrame.refl k s, rfl, fun i hi => absurd hi (by simp [streamOut])⟩
  | cons c cs ih =>
    have hk : s.inWin.read k = some c := h 0 (by simp)
    obtain ⟨t, ht, fr, ho, hw⟩ := ih (k + 1)
      { s with outWin := s.outWin.write k (outEntryNow s), osc := s.osc.afterSample c }
      (fun i hi => by
        have := h (i + 1) (by simpa using hi)
        rwa [show k + (i + 1) = k + 1 + i by omega] at this)
    refine ⟨t, by simp only [List.length_cons, sampleLoop, sampleStep_written hk, ht], ?_, ?_, fun i hi => ?_⟩
    · exact ⟨fr.build, fr.bx, fr.sr, fr.inWin, fr.cmdPort, fr.host, fr.seen, fr.draws, fr.amp, fr.offi, fr.offq, fr.coeff,
        fr.started, fr.finished, fun j hj => (fr.outRead j (by simp at hj; omega)).trans (read_write_other _ _ (by simp at hj; omega))⟩
    · rw [ho]
      cases cs <;> rfl
    · cases i with
      | zero =>
        rw [Nat.add_zero, fr.outRead k (by omega)]
        exact read_write_same _ _ _
      | succ i =>
        have := hw i (by simpa using hi)
        rw [show k + (i + 1) = k + 1 + i by omega, this]
        simp only [streamOut_afterSample, afterSample_phase, phaseStep]
        rfl

/-- The loop keeps both windows canonical and inside `DEPTH`. -/
theorem sampleLoop_wf {n k : Nat} {s t : State} (h : sampleLoop n k s = .next t) (hd : k + n ≤ s.build.depth)
    (hw : s.outWin.wf) (hi : s.outWin.within s.build.depth) : t.outWin.wf ∧ t.outWin.within s.build.depth := by
  induction n generalizing k s with
  | zero => cases h; exact ⟨hw, hi⟩
  | succ n ih =>
    cases hk : s.inWin.read k with
    | none => simp only [sampleLoop, sampleStep_unwritten hk] at h; cases h
    | some c =>
      simp only [sampleLoop, sampleStep_written hk] at h
      have := ih h (by simp only; omega) (write_wf k _ hw) (write_within _ (show k < s.build.depth by omega) hi)
      exact this

/-- `osc.process` does one of three things (R160, R162, R57). -/
theorem execOscProcess_cases (ni no : BitVec 16) (eoi : Bool) (s : State) :
    ((s.build.depth < ni.toNat ∨ s.build.depth < no.toNat) ∧ execOscProcess ni no eoi s = .next (s.raise .windowRange)) ∨
    (ni.toNat ≤ s.build.depth ∧ no.toNat ≤ s.build.depth ∧
      ((∃ t, sampleLoop (min ni.toNat no.toNat) 0 s = .next t ∧ LoopFrame (min ni.toNat no.toNat) 0 s t ∧
          execOscProcess ni no eoi s = .next (finishProcess ni no eoi t)) ∨
       ∃ k, k < min ni.toNat no.toNat ∧ s.inWin.read k = none ∧ (∀ j < k, s.inWin.read j ≠ none) ∧
          execOscProcess ni no eoi s = .fault (.uninitIn k))) := by
  by_cases h : s.build.depth < ni.toNat ∨ s.build.depth < no.toNat
  · exact .inl ⟨h, by rw [execOscProcess, if_pos h]⟩
  · refine .inr ⟨by omega, by omega, ?_⟩
    rcases sampleLoop_cases (min ni.toNat no.toNat) 0 s with ⟨t, ht, fr, _⟩ | ⟨k, _, h₂, hk, hlt, hf⟩
    · exact .inl ⟨t, ht, fr, by rw [execOscProcess, if_neg h, ht]⟩
    · exact .inr ⟨k, by omega, hk, fun j hj => hlt j (by omega) hj, by rw [execOscProcess, if_neg h, hf]⟩

/-! ### Every command -/

/-- What a command can do: it answers, from a state that differs from the one before in architectural state alone, and not at
all where the status is not OK; or it is an `osc.process` stopped by `UNINIT_IN(k)` (R12, R57, R70, R191). -/
theorem exec_cases (i : Instr) (s : State) :
    (∃ u st aux data, exec i s = .next (State.answer u st aux data) ∧
      u.build = s.build ∧ u.host = s.host ∧ u.seen = s.seen ∧ u.draws = s.draws ∧
      (st ≠ .ok → u = s ∧ aux = 0 ∧ data = 0)) ∨
    ∃ ni no eoi k, i = .oscProcess ni no eoi ∧ k < min ni.toNat no.toNat ∧ s.inWin.read k = none ∧
      exec i s = .fault (.uninitIn k) := by
  cases i with
  | bxPull =>
    by_cases h : s.bx.rem.toNat = 0
    · exact .inl ⟨_, _, _, _, execBxPull_exhausted h, rfl, rfl, rfl, rfl, by simp⟩
    · exact .inl ⟨_, _, _, _, execBxPull_emits h, rfl, rfl, rfl, rfl, by simp⟩
  | srPull =>
    by_cases h : s.sr.cnt.toNat = 0
    · exact .inl ⟨_, _, _, _, execSrPull_exhausted h, rfl, rfl, rfl, rfl, by simp⟩
    · exact .inl ⟨_, _, _, _, execSrPull_emits h, rfl, rfl, rfl, rfl, by simp⟩
  | oscProcess ni no eoi =>
    rcases execOscProcess_cases ni no eoi s with ⟨_, h⟩ | ⟨_, _, ⟨t, ht, fr, h⟩ | ⟨k, hk, hr, _, h⟩⟩
    · exact .inl ⟨s, _, _, _, h, rfl, rfl, rfl, rfl, by simp⟩
    · exact .inl ⟨_, _, _, _, h, fr.build, fr.host, fr.seen, fr.draws, by simp⟩
    · exact .inr ⟨ni, no, eoi, k, rfl, hk, hr, h⟩
  | oscSetamp | oscSetoffi | oscSetoffq | oscSetcoeff | oscSetphase | oscSetfreq =>
    left
    simp only [exec, execOscSetamp, execOscSetoffi, execOscSetoffq, execOscSetcoeff, execOscSetphase, execOscSetfreq,
      configWrite]
    split
    · exact ⟨s, _, _, _, rfl, rfl, rfl, rfl, rfl, by simp⟩
    · exact ⟨_, _, _, _, rfl, rfl, rfl, rfl, rfl, by simp⟩
  | _ => exact .inl ⟨_, _, _, _, rfl, rfl, rfl, rfl, rfl, by simp⟩

/-! ### The host's turn -/

/-- A host turn that answers is one of these (R55, R70, R220). -/
theorem hostAct_cases {op : HostOp} {s t : State} (h : hostAct op s = .next t) :
    (op = .rst ∧ t = s.resetBlock) ∨ s.cmdPort = none ∧
    ((∃ a v, op = .writeIn a v ∧ a.toNat < s.build.depth ∧ t = { s with inWin := s.inWin.write a.toNat v }) ∨
     (∃ a v, op = .writeOut a v ∧ a.toNat < s.build.depth ∧ t = { s with outWin := s.outWin.write a.toNat v }) ∨
     (∃ a, op = .readIn a ∧ a.toNat < s.build.depth ∧ t = hostReadIn a s) ∨
     (∃ a, op = .readOut a ∧ a.toNat < s.build.depth ∧ t = hostReadOut a s) ∨
     ∃ c, op = .command c ∧ t = { s with cmdPort := some c }) := by
  rw [hostAct] at h
  split_ifs at h with hov
  have hfree : op = .rst ∨ s.cmdPort = none := by
    by_cases hop : op = .rst
    · exact .inl hop
    · exact .inr (by simpa [hop] using hov)
  cases op with
  | rst => exact .inl ⟨rfl, by simpa [hostOpFree, eq_comm] using h⟩
  | command c =>
    exact .inr ⟨by simpa using hfree, .inr (.inr (.inr (.inr ⟨c, rfl, by simpa [hostOpFree, eq_comm] using h⟩)))⟩
  | writeIn a v =>
    simp only [hostOpFree, atIndex] at h
    split_ifs at h with hi
    exact .inr ⟨by simpa using hfree, .inl ⟨a, v, rfl, hi, by simpa [eq_comm] using h⟩⟩
  | writeOut a v =>
    simp only [hostOpFree, atIndex] at h
    split_ifs at h with hi
    exact .inr ⟨by simpa using hfree, .inr (.inl ⟨a, v, rfl, hi, by simpa [eq_comm] using h⟩)⟩
  | readIn a =>
    simp only [hostOpFree, atIndex] at h
    split_ifs at h with hi
    exact .inr ⟨by simpa using hfree, .inr (.inr (.inl ⟨a, rfl, hi, by simpa [eq_comm] using h⟩))⟩
  | readOut a =>
    simp only [hostOpFree, atIndex] at h
    split_ifs at h with hi
    exact .inr ⟨by simpa using hfree, .inr (.inr (.inr (.inl ⟨a, rfl, hi, by simpa [eq_comm] using h⟩)))⟩

/-- What the host sees of a read, and that nothing else changes but the count of draws (R55, R57). -/
theorem hostReadIn_cases (a : Index) (s : State) :
    ∃ v d, hostReadIn a s = { s with seen := s.seen ++ [.inEntry a v], draws := d } := by
  unfold hostReadIn
  split
  · exact ⟨_, s.draws, rfl⟩
  · exact ⟨_, _, rfl⟩

theorem hostReadOut_cases (a : Index) (s : State) :
    ∃ v d, hostReadOut a s = { s with seen := s.seen ++ [.outEntry a v], draws := d } := by
  unfold hostReadOut
  split
  · exact ⟨_, s.draws, rfl⟩
  · exact ⟨_, _, rfl⟩

/-! ### Steps -/

/-- A step is a turn of the block, or a turn of the host. -/
theorem step_cases (s : State) :
    (HostWaits s ∧ step s = serve { s with host := s.host.tail }) ∨
    ∃ op rest, s.host = .act op :: rest ∧ step s = hostAct op { s with host := rest } := by
  cases h : s.host with
  | nil => exact .inl ⟨.inl (by simp [h]), by simp only [step, h, List.tail_nil]; rw [← h]⟩
  | cons turn rest =>
    cases turn with
    | wait => exact .inl ⟨.inr (by simp [h]), by simp only [step, h, List.tail_cons]⟩
    | act op => exact .inr ⟨op, rest, rfl, by simp only [step, h]⟩

/-- What the block does in its turn: it idles, runs a command, or answers ILLEGAL_COMMAND. -/
theorem serve_cases (s : State) :
    (s.cmdPort = none ∧ serve s = .next s) ∨
    ∃ c, s.cmdPort = some c ∧
      ((∃ i, decode s.build c = some i ∧ serve s = exec i s) ∨
       (decode s.build c = none ∧ serve s = .next (s.raise .illegalCommand))) := by
  cases h : s.cmdPort with
  | none => exact .inl ⟨rfl, by rw [serve, h]⟩
  | some c =>
    refine .inr ⟨c, rfl, ?_⟩
    cases hd : decode s.build c with
    | none => exact .inr ⟨rfl, by rw [serve, h]; simp only [runWord, hd]⟩
    | some i => exact .inl ⟨i, rfl, by rw [serve, h]; simp only [runWord, hd]⟩

end Sys2Proof.Machine
end

