-- ==== Sys2Proof/Laws/PerInstr.lean ====
section
/-! SUPPORT. One lemma per command: its word carries the opcode of R79, and the fields of R83. -/

namespace Sys2Proof.Laws.EncodedFields

/-- The three fields of the command's word are the ones R83 gives, and its opcode is an assigned one (R79). -/
def Statement (i : Instr) : Prop :=
  (opcField (encode i) = i.opc ∧ aField (encode i) = i.fieldA ∧ dField (encode i) = i.fieldD) ∧
  i.opc ∈ [0x10#8, 0x11#8, 0x12#8, 0x20#8, 0x21#8, 0x22#8, 0x30#8, 0x31#8, 0x40#8]

/-- The word is put together from the fields, so they come out of it again. -/
theorem fields_encode (i : Instr) :
    opcField (encode i) = i.opc ∧ aField (encode i) = i.fieldA ∧ dField (encode i) = i.fieldD :=
  ⟨opcField_fields _ _ _, aField_fields _ _ _, dField_fields _ _ _⟩

theorem bxLoad (v : BitVec 32) : Statement (.bxLoad v) := ⟨fields_encode _, by simp [Instr.opc]⟩
theorem bxPull : Statement .bxPull := ⟨fields_encode _, by simp [Instr.opc]⟩
theorem bxStat : Statement .bxStat := ⟨fields_encode _, by simp [Instr.opc]⟩
theorem srLoad (v : BitVec 32) (n : BitVec 24) : Statement (.srLoad v n) := ⟨fields_encode _, by simp [Instr.opc]⟩
theorem srPull : Statement .srPull := ⟨fields_encode _, by simp [Instr.opc]⟩
theorem srStat : Statement .srStat := ⟨fields_encode _, by simp [Instr.opc]⟩
theorem oscSetamp (v : Q214) : Statement (.oscSetamp v) := ⟨fields_encode _, by simp [Instr.opc]⟩
theorem oscSetoffi (v : Q214) : Statement (.oscSetoffi v) := ⟨fields_encode _, by simp [Instr.opc]⟩
theorem oscSetoffq (v : Q214) : Statement (.oscSetoffq v) := ⟨fields_encode _, by simp [Instr.opc]⟩
theorem oscSetcoeff (v : Freq) : Statement (.oscSetcoeff v) := ⟨fields_encode _, by simp [Instr.opc]⟩
theorem oscSetphase (v : Phase) : Statement (.oscSetphase v) := ⟨fields_encode _, by simp [Instr.opc]⟩
theorem oscSetfreq (v : Freq) : Statement (.oscSetfreq v) := ⟨fields_encode _, by simp [Instr.opc]⟩
theorem oscRdamp : Statement .oscRdamp := ⟨fields_encode _, by simp [Instr.opc]⟩
theorem oscRdoffi : Statement .oscRdoffi := ⟨fields_encode _, by simp [Instr.opc]⟩
theorem oscRdoffq : Statement .oscRdoffq := ⟨fields_encode _, by simp [Instr.opc]⟩
theorem oscRdcoeff : Statement .oscRdcoeff := ⟨fields_encode _, by simp [Instr.opc]⟩
theorem oscRdphase : Statement .oscRdphase := ⟨fields_encode _, by simp [Instr.opc]⟩
theorem oscRdfreq : Statement .oscRdfreq := ⟨fields_encode _, by simp [Instr.opc]⟩
theorem oscRdstat : Statement .oscRdstat := ⟨fields_encode _, by simp [Instr.opc]⟩
theorem oscProcess (ni no : BitVec 16) (eoi : Bool) : Statement (.oscProcess ni no eoi) :=
  ⟨fields_encode _, by simp [Instr.opc]⟩

end Sys2Proof.Laws.EncodedFields
end

