-- ==== Sys2Proof/Laws/Pts.lean ====
section
/-! SUPPORT. What the phase-to-sample function of each choice is, and that a total table has an entry for every phase. -/

namespace Sys2Proof.Machine

@[simp] theorem pts_quadrature (p : Phase) : pts .quadrature p = ptsDefault p := rfl
@[simp] theorem pts_table (bits entries) (p : Phase) : pts (.table bits entries) p = ptsTable bits entries p := rfl
@[simp] theorem pts_other (id : Nat) (p : Phase) : pts (.other id) p = Config.otherPts id p := rfl

theorem total_table_iff (bits : Nat) (entries : List (Q214 × Q214)) :
    (PtsChoice.table bits entries).total = true ↔ bits ≤ 32 ∧ entries.length = 2 ^ bits := by
  simp [PtsChoice.total]

theorem tableIndex_lt {bits : Nat} (h : bits ≤ 32) (p : Phase) : tableIndex bits p < 2 ^ bits := by
  rw [tableIndex, Nat.div_lt_iff_lt_mul (by positivity), ← pow_add, Nat.add_sub_cancel' h]
  exact p.isLt

/-- A table of all 32 bits is indexed by the phase itself. -/
@[simp] theorem tableIndex_whole (p : Phase) : tableIndex 32 p = p.toNat := by
  simp [tableIndex]

/-- A table where it has an entry. -/
theorem ptsTable_of_lt {bits : Nat} {entries : List (Q214 × Q214)} {p : Phase} (h : tableIndex bits p < entries.length) :
    ptsTable bits entries p = entries[tableIndex bits p] := by
  simp [ptsTable, h]

end Sys2Proof.Machine
end

