-- ==== Sys2Proof/Tests/Slice0.lean ====
section
/-! SUPPORT. The model's own tests: expected values are those of spec/95_test_vectors.md or are written out from an encoding of
30_encoding.md; and for every statement with hypotheses, a state and operands that meet them together (the `witness_` theorems). -/

namespace Sys2Proof.Tests

open Sys2Proof.Machine

/-! ## Helpers -/

/-- The smallest build of R7. -/
def narrow : Build := { w := 1, tw := 1, nw := 1, depth := 1, pts := .quadrature }

/-- The largest build of R7, with another phase-to-sample function. -/
def wide : Build := { w := 32, tw := 32, nw := 24, depth := 65536, pts := .other 0 }

/-- A build whose phase-to-sample function is a triangle in four entries: (1, 0), (0, 1), (-1, 0), (0, -1). -/
def fourPoint : Build := { Build.standard with pts := .table 2 [(0x4000, 0), (0, 0x4000), (0xC000, 0), (0, 0xC000)] }

/-- The build of vectors ST13 and ST14. -/
def shallow : Build := { Build.standard with depth := 1024 }

theorem legal_standard : Build.standard.Legal := by constructor <;> decide
theorem legal_narrow : narrow.Legal := by constructor <;> decide
theorem legal_wide : wide.Legal := by constructor <;> decide
theorem legal_fourPoint : fourPoint.Legal := by constructor <;> decide
theorem legal_shallow : shallow.Legal := by constructor <;> decide

/-- The state after reset with these IN entries written from entry 0. -/
def withIn (cs : List Q214) : State := { State.reset with inWin := (List.range cs.length).zip cs }

/-- A state in the middle of things: a half-pulled 0x55, a run of 1s with 2 left, OSC started and finished, entries in both windows. -/
def busy : State :=
  { State.reset with
    bx := ⟨0x54, 6⟩, sr := ⟨1, 2⟩,
    osc := { Osc.reset with phase := 0x40000000, freq := 0x40000000, coeff := 0x40000000, started := true, finished := true },
    inWin := [(0, 0x4000), (1, 0x4000)], outWin := [(0, 0xC0000000), (1, 0x00004000), (2, 0x0000C000)] }

/-- A busy state during construction: configured, not started. -/
def configured : State := { busy with osc := { busy.osc with started := false, finished := false } }

/-- The next state, if there is one. -/
def nextOf : Host.Outcome State Fault Refusal → Option State
  | .next t => some t
  | .fault _ => none
  | .refused _ => none

/-- The fault, if there is one. -/
def faultOf : Host.Outcome State Fault Refusal → Option Fault
  | .next _ => none
  | .fault f => some f
  | .refused _ => none

/-- The refusal, if there is one. -/
def refusalOf : Host.Outcome State Fault Refusal → Option Refusal
  | .next _ => none
  | .fault _ => none
  | .refused r => some r

/-- The state after the one step that runs the word `w`. -/
def ran (s : State) (w : Nat) : Option State := nextOf (step (s.withFetchWord 64 w))

/-- What the block answers to the word `w`. -/
def reply (s : State) (w : Nat) : Option Observation := (ran s w).bind fun t => t.seen.getLast?

/-- The step in which the host does `op`. -/
def hosted (s : State) (op : HostOp) : Host.Outcome State Fault Refusal := step { s with host := [.act op] }

/-! ## WellFormed: ill-formed commands are refused by the check, and what is not encodable is not decoded -/

theorem test_illformed_bxLoad : (Instr.bxLoad 0x100).wellFormed Build.standard = false := by decide
theorem test_wellformed_bxLoad_max : (Instr.bxLoad 0xFF).wellFormed Build.standard = true := by decide
theorem test_illformed_bxLoad_narrow : (Instr.bxLoad 2).wellFormed narrow = false := by decide
theorem test_wellformed_bxLoad_wide : (Instr.bxLoad 0xFFFFFFFF).wellFormed wide = true := by decide
theorem test_illformed_srLoad_symbol : (Instr.srLoad 0x100 1).wellFormed Build.standard = false := by decide
theorem test_illformed_srLoad_count : (Instr.srLoad 1 0x10000).wellFormed Build.standard = false := by decide
theorem test_wellformed_srLoad_max : (Instr.srLoad 0xFF 0xFFFF).wellFormed Build.standard = true := by decide
theorem test_illegal_build_width_zero : ¬ ({ Build.standard with w := 0 } : Build).Legal := fun h => absurd h.w_pos (by decide)
theorem test_illegal_build_width_33 : ¬ ({ Build.standard with w := 33 } : Build).Legal := fun h => absurd h.w_le (by decide)
theorem test_illegal_build_symbol_33 : ¬ ({ Build.standard with tw := 33 } : Build).Legal := fun h => absurd h.tw_le (by decide)
theorem test_illegal_build_count_25 : ¬ ({ Build.standard with nw := 25 } : Build).Legal := fun h => absurd h.nw_le (by decide)
theorem test_illegal_build_depth_zero : ¬ ({ Build.standard with depth := 0 } : Build).Legal :=
  fun h => absurd h.depth_pos (by decide)
theorem test_illegal_build_depth_65537 : ¬ ({ Build.standard with depth := 65537 } : Build).Legal :=
  fun h => absurd h.depth_le (by decide)

theorem test_illegal_build_table_short :
    ¬ ({ Build.standard with pts := .table 2 [(0, 0), (0, 0), (0, 0)] } : Build).Legal := fun h => absurd h.pts_total (by decide)
theorem test_illegal_build_table_33 : ¬ ({ Build.standard with pts := .table 33 [] } : Build).Legal :=
  fun h => absurd h.pts_total (by decide)

/-! ## Decoding: words written out field by field, OPC 63:56, A 55:32, D 31:0 (R71, R76) -/

/-- A word from its three fields, written in binary. -/
def word (opc : BitVec 8) (a : BitVec 24) (d : BitVec 32) : Word := opc ++ a ++ d

theorem test_decode_bxLoad :
    decode Build.standard (word 0b00010000 0 0b00000000000000000000000001010101) = some (.bxLoad 0x55) := by decide
theorem test_decode_bxPull : decode Build.standard (word 0b00010001 0 0) = some .bxPull := by decide
theorem test_decode_bxStat : decode Build.standard (word 0b00010010 0 0) = some .bxStat := by decide
theorem test_decode_srLoad :
    decode Build.standard (word 0b00100000 0b000000000000001000101100 0b1) = some (.srLoad 1 556) := by decide
theorem test_decode_srPull : decode Build.standard (word 0b00100001 0 0) = some .srPull := by decide
theorem test_decode_srStat : decode Build.standard (word 0b00100010 0 0) = some .srStat := by decide
theorem test_decode_oscSetamp :
    decode Build.standard (word 0b00110000 0b000 0b0010000000000000) = some (.oscSetamp 0x2000) := by decide
theorem test_decode_oscSetoffi :
    decode Build.standard (word 0b00110000 0b001 0b0001000000000000) = some (.oscSetoffi 0x1000) := by decide
theorem test_decode_oscSetoffq :
    decode Build.standard (word 0b00110000 0b010 0b1111000000000000) = some (.oscSetoffq (-4096)) := by decide
theorem test_decode_oscSetcoeff :
    decode Build.standard (word 0b00110000 0b011 0b00000100000000000000000000000000) = some (.oscSetcoeff 0x04000000) := by decide
theorem test_decode_oscSetphase :
    decode Build.standard (word 0b00110000 0b100 0b01000000000000000000000000000000) = some (.oscSetphase 0x40000000) := by decide
theorem test_decode_oscSetfreq :
    decode Build.standard (word 0b00110000 0b101 0b000100000000) = some (.oscSetfreq 0x00000100) := by decide
theorem test_decode_oscRdamp : decode Build.standard (word 0b00110001 0b000 0) = some .oscRdamp := by decide
theorem test_decode_oscRdoffi : decode Build.standard (word 0b00110001 0b001 0) = some .oscRdoffi := by decide
theorem test_decode_oscRdoffq : decode Build.standard (word 0b00110001 0b010 0) = some .oscRdoffq := by decide
theorem test_decode_oscRdcoeff : decode Build.standard (word 0b00110001 0b011 0) = some .oscRdcoeff := by decide
theorem test_decode_oscRdphase : decode Build.standard (word 0b00110001 0b100 0) = some .oscRdphase := by decide
theorem test_decode_oscRdfreq : decode Build.standard (word 0b00110001 0b101 0) = some .oscRdfreq := by decide
theorem test_decode_oscRdstat : decode Build.standard (word 0b00110001 0b110 0) = some .oscRdstat := by decide
theorem test_decode_oscProcess :
    decode Build.standard (word 0b01000000 0b1 0b00000000000000110000000000000101) = some (.oscProcess 5 3 true) := by decide

/-- The word of a command is taken from its eight bytes, lowest first (R59). -/
theorem test_decode_bytes :
    decodeBytes Build.standard [0x01, 0x00, 0x02, 0x00, 0x01, 0x00, 0x00, 0x40] = some (.oscProcess 1 2 true) := by decide
/-- "The length of a command is always 64 bits" (R71). -/
theorem test_decode_bytes_short : decodeBytes Build.standard [0x00, 0x00, 0x00, 0x11] = none := by decide
/-- R83's worked example: `osc.process 4, 4, 0`. -/
theorem test_encode_oscProcess : encode (.oscProcess 4 4 false) = 0x4000000000040004 := by decide
theorem test_decodeTableWord : decodeTableWord 64 0x3100000600000000 = some .oscRdstat := by decide
/-- The opcode map with the masks of R78 is R76's printed table for the default parameters. -/
theorem test_opcodeMap_standard : opcodeMap Build.standard = opcodeTable := by decide
/-- BX2, SR2, ST1 to ST8: words no command has. -/
theorem test_decode_refuses :
    [0x1000000000000155, 0x1000000100000055, 0x1100000000000001, 0x2000000000000100, 0x2001000000000001, 0x0000000000000000,
      0x1300000000000000, 0xFF00000000000000, 0x3000000600000000, 0x3100000700000000, 0x3100000000000001, 0x3000000000012000,
      0x4000000200000000].map (decode Build.standard) = List.replicate 13 none := by decide
/-- BX3: with `W` = 1 the word 0x1000000000000002 is illegal, and with `W` = 32 the value takes all of D. -/
theorem test_decode_other_widths :
    decode narrow 0x1000000000000002 = none ∧ decode wide 0x1000000080000001 = some (.bxLoad 0x80000001) := by decide

/-! ## The assembler (R82 to R85) -/

/-- Program P5's first two lines. -/
theorem test_assemble_lines :
    asmProgram Build.standard "osc.setphase 0xFFFFFFFF         # comment\nhost.wrin 0, 0x4000".toList =
      some [.act (.command 0x30000004FFFFFFFF), .wait, .act (.writeIn 0 0x4000)] := by decide +kernel
/-- R82's literal range, at its two ends: -128 and 255 are 8-bit literals, -129 and 256 are not. -/
theorem test_literal_range :
    [-128, 255, -129, 256].map (literal 8) = [some 0x80, some 0xFF, none, none] := by decide
/-- R84: `osc.finish 1` is `osc.process 0, 1, 1`, whose word is PR5's. -/
theorem test_assemble_finish :
    (assemble Build.standard "osc.finish" [1]).map (List.map encode) = some [0x4000000100010000] := by decide
theorem test_assemble_setoff :
    (assemble Build.standard "osc.setoff" [-1, -4096]).map (List.map encode) =
      some [0x300000010000FFFF, 0x300000020000F000] := by decide
theorem test_assemble_init :
    (assemble Build.standard "osc.init" [0x2000, -1, -4096, 0x04000000, 0x40000000]).map (List.map encode) =
      some [0x3000000000002000, 0x300000010000FFFF, 0x300000020000F000, 0x3000000304000000, 0x3000000440000000] := by decide

/-! ## BX (95_test_vectors.md 2.1) -/

/-- BX1, step 2. -/
theorem test_bxLoad : (ran State.reset 0x1000000000000055).map State.bx = some ⟨0x55, 8⟩ := by decide
/-- BX2, "load discards". -/
theorem test_bxLoad_discards : (ran busy 0x10000000000000F0).map State.bx = some ⟨0xF0, 8⟩ := by decide
/-- BX1, step 3: the top bit goes out, and bit 7 of the shifted value drops out. -/
theorem test_bxPull :
    (ran { State.reset with bx := ⟨0xAA, 7⟩ } 0x1100000000000000).map (fun t => (t.bx, t.seen)) =
      some (⟨0x54, 6⟩, [.response 0x0000000100000001]) := by decide
/-- BX1, step 11: an exhausted cursor answers VALID = 0 and stays so. -/
theorem test_bxPull_exhausted :
    (ran State.reset 0x1100000000000000).map (fun t => (t.bx, t.seen)) = some (⟨0, 0⟩, [.response 0]) := by decide
/-- R105's example. -/
theorem test_bxStat : reply { State.reset with bx := ⟨0xAA, 7⟩ } 0x1200000000000000 = some (.response 0x00000007000000AA) := by
  decide
/-- BX3: `W` = 32, the first pull of 0x80000001. -/
theorem test_bxPull_wide :
    (ran { State.resetIn wide with bx := ⟨0x80000001, 32⟩ } 0x1100000000000000).map (fun t => (t.bx, t.seen)) =
      some (⟨0x00000002, 31⟩, [.response 0x0000000100000001]) := by decide

/-! ## SR (95_test_vectors.md 2.2) -/

/-- SR2, "the source's run". -/
theorem test_srLoad : (ran State.reset 0x2000022C00000001).map State.sr = some ⟨1, 556⟩ := by decide
/-- SR2, "n = 0": an empty run. -/
theorem test_srLoad_empty : (ran busy 0x2000000000000001).map State.sr = some ⟨1, 0⟩ := by decide
/-- SR2, "value 0": VALID tells a 0 symbol from the end of the run. -/
theorem test_srPull_zero_symbol :
    (ran { State.reset with sr := ⟨0, 2⟩ } 0x2100000000000000).map (fun t => (t.sr, t.seen)) =
      some (⟨0, 1⟩, [.response 0x0000000100000000]) := by decide
/-- SR1, the last pull. -/
theorem test_srPull_exhausted :
    (ran { State.reset with sr := ⟨1, 0⟩ } 0x2100000000000000).map (fun t => (t.sr, t.seen)) =
      some (⟨1, 0⟩, [.response 0]) := by decide
/-- R125's example. -/
theorem test_srStat : reply { State.reset with sr := ⟨1, 555⟩ } 0x2200000000000000 = some (.response 0x0000022B00000001) := by
  decide

/-! ## OSC configuration and reads (95_test_vectors.md 2.6, 2.8) -/

theorem test_oscSetamp : (ran configured 0x3000000000002000).map State.osc = some { configured.osc with amp := 0x2000 } := by decide
theorem test_oscSetoffi : (ran configured 0x300000010000FFFF).map State.osc = some { configured.osc with offi := -1 } := by decide
theorem test_oscSetoffq : (ran configured 0x300000020000F000).map State.osc = some { configured.osc with offq := 0xF000 } := by decide
theorem test_oscSetcoeff :
    (ran configured 0x3000000304000000).map State.osc = some { configured.osc with coeff := 0x04000000 } := by decide
theorem test_oscSetphase :
    (ran configured 0x30000004FFFFFFFF).map State.osc = some { configured.osc with phase := 0xFFFFFFFF } := by decide
theorem test_oscSetfreq : (ran configured 0x3000000500000100).map State.osc = some { configured.osc with freq := 0x100 } := by decide
/-- ST9, ST10: the lock. -/
theorem test_osc_lock :
    [0x3000000000002000, 0x3000000100001000, 0x300000020000F000, 0x3000000300000005, 0x3000000440000000, 0x3000000500000100].map
      (fun w => (ran busy w).map fun t => (t.osc, t.seen)) =
    List.replicate 6 (some (busy.osc, [.response 0x0200000000000000])) := by decide
/-- ST11: ILLEGAL_COMMAND wins over ILLEGAL_STATE. -/
theorem test_illegal_wins : reply busy 0x3000000000012000 = some (.response 0x0100000000000000) := by decide
theorem test_oscRdamp_reset : reply State.reset 0x3100000000000000 = some (.response 0x0000000000004000) := by decide
/-- A 16-bit register reads zero-extended (R73). -/
theorem test_oscRdoffi_zero_extends :
    reply { State.reset with osc := { Osc.reset with offi := -1 } } 0x3100000100000000 = some (.response 0x000000000000FFFF) := by decide
theorem test_oscRdoffq_zero_extends :
    reply { State.reset with osc := { Osc.reset with offq := 0xF000 } } 0x3100000200000000 = some (.response 0x000000000000F000) := by
  decide
theorem test_oscRdcoeff :
    reply { State.reset with osc := { Osc.reset with coeff := 0x04000000 } } 0x3100000300000000 = some (.response 0x0000000004000000) := by
  decide
theorem test_oscRdphase :
    reply { State.reset with osc := { Osc.reset with phase := 0xC0000000 } } 0x3100000400000000 = some (.response 0x00000000C0000000) := by
  decide
theorem test_oscRdfreq :
    reply { State.reset with osc := { Osc.reset with freq := 0xFC000000 } } 0x3100000500000000 = some (.response 0x00000000FC000000) := by
  decide
/-- Bit 0 is OSC_STARTED and bit 1 is OSC_FINISHED (R37): a stream that runs and is not done reads 1. -/
theorem test_oscRdstat :
    reply { State.reset with osc := { Osc.reset with started := true } } 0x3100000600000000 = some (.response 1) ∧
    reply busy 0x3100000600000000 = some (.response 3) := by decide

/-! ## OSC numerics (95_test_vectors.md 2.3 to 2.5) -/

/-- `FreqOf`: -1.0; the two roundings toward minus infinity; the wraps modulo 2^32; a large product. -/
theorem test_freqOf :
    [(0xC000, 0x04000000), (0x0001, 0x00000001), (0xFFFF, 0x00000001), (0x8000, 0x80000000), (0xC000, 0x80000000),
      (0x7FFF, 0x7FFFFFFF), (0x8000, 0x7FFFFFFF)].map (fun ck => freqOf ck.1 ck.2) =
    [0xFC000000, 0x00000000, 0xFFFFFFFF, 0x00000000, 0x80000000, 0xFFFDFFFE, 0x00000002] := by decide
/-- `PTS_default` at amplitude 1.0: each quarter, both sides of a quarter point, and the truncated phase bits. -/
theorem test_ptsDefault :
    [0x000FFFFF, 0x00100000, 0x04000000, 0x1FF00000, 0x3FF00000, 0x40000000, 0x40100000, 0x60000000, 0x7FF00000, 0x80000000,
      0x80100000, 0xC0000000, 0xFC000000, 0xFFFFFFFF].map (fun p => outOf (pts .quadrature p) 0x4000 0 0) =
    [0x00004000, 0x00194000, 0x06463FB1, 0x2D2F2D53, 0x40000019, 0x40000000, 0x4000FFE7, 0x2D41D2BF, 0x0019C000, 0x0000C000,
      0xFFE7C000, 0xC0000000, 0xF9BA3FB1, 0xFFE74000] := by decide +kernel
/-- A table is read by the upper bits of the phase (R7, R167): both ends of the first and of the last quarter, and a one-entry table. -/
theorem test_pts_table :
    [0x00000000, 0x3FFFFFFF, 0x40000000, 0xC0000000, 0xFFFFFFFF].map (pts fourPoint.pts) =
      [(0x4000, 0), (0x4000, 0), (0, 0x4000), (0, 0xC000), (0, 0xC000)] ∧
    pts (.table 0 [(7, 9)]) 0xFFFFFFFF = (7, 9) := by decide
/-- `OutOf`: the offsets, saturation both ways, -2.0, a negative product rounded down, and amplitude 0. -/
theorem test_outOf :
    [outOf (16384, 0) 0x2000 0x1000 0xF000, outOf (16384, 0) 0x7FFF 0x7FFF 0, outOf (16384, 0) 0x8000 0 0,
      outOf (11585, 11585) 0xFFFF 0 0, outOf (16384, 0) 0x4000 0x8000 0x7FFF, outOf (-16384, 0) 0x4000 0x8000 0,
      outOf (-11585, 11585) 0x2000 0 0, outOf (16384, 0) 0 0x1234 0x5678] =
    [0xF0003000, 0x00007FFF, 0x00008000, 0xFFFFFFFF, 0x7FFFC000, 0x00008000, 0x16A0E95F, 0x56781234] := by decide
/-- R171's checks on the table: five entries, and the sum of T[0..1024]. -/
theorem test_cosTable :
    [0, 64, 512, 960, 1024].map cosTable = [16384, 16305, 11585, 1606, 0] ∧
    (cosRows.map List.sum).sum = 10688926 ∧ (cosRows.map List.length).sum = 1025 := by decide +kernel

/-! ## osc.process (95_test_vectors.md 2.7 and program P2) -/

/-- P2: the trace of `osc.process 4, 4, 0` from phase 0 with coefficient 0x04000000, and its response. -/
theorem test_oscProcess_trace :
    (ran { withIn [0x4000, 0x4000, 0xC000, 0xC000] with osc := { Osc.reset with coeff := 0x04000000 } } 0x4000000000040004).map
      (fun t => (t.outWin, t.osc.phase, t.osc.freq, t.seen)) =
    some ([(0, 0x00004000), (1, 0x06463FB1), (2, 0x0C7C3EC5), (3, 0x06463FB1)], 0, 0xFC000000, [.response 0x0000000000040004]) := by
  decide +kernel
/-- PR9's first three samples in the four-entry build: R160's loop with that build's `PTS`, a quarter cycle a sample. -/
theorem test_oscProcess_table :
    (ran { withIn [0x4000, 0x4000, 0x4000] with build := fourPoint, osc := { Osc.reset with coeff := 0x40000000 } }
      0x4000000000030003).map (fun t => (t.outWin, t.osc.phase)) =
    some ([(0, 0x00004000), (1, 0x40000000), (2, 0x0000C000)], 0xC0000000) := by decide
/-- PR1 to PR7: counts and termination. -/
theorem test_oscProcess_answers :
    [0x4000000000050003, 0x4000000100050003, 0x4000000100040004, 0x4000000100030005, 0x4000000100010000, 0x4000000100000000,
      0x4000000000000002].map (reply (withIn [1, 2, 3, 4, 5])) =
    [0x0000000000030003, 0x0000000100030003, 0x0000000000040004, 0x0000000000030003, 0x0000000100000000, 0, 0].map
      fun r => some (.response r) := by decide +kernel
/-- ST13: WINDOW_RANGE, and OSC_STARTED stays 0. -/
theorem test_windowRange :
    (ran (State.resetIn shallow) 0x40000000000107D0).map (fun t => (t.osc.started, t.seen)) =
      some (false, [.response 0x0300000000000000]) := by decide
/-- ST14: `no` = DEPTH is legal. -/
theorem test_windowRange_at_depth :
    (ran (State.resetIn shallow) 0x4000000104000000).map (fun t => (t.osc.started, t.osc.finished, t.seen)) =
      some (true, true, [.response 0x0000000100000000]) := by decide
/-- ST15. -/
theorem test_uninitIn : faultOf (step (State.reset.withFetchWord 64 0x4000000000010001)) = some (.uninitIn 0) := by decide

/-! ## The host, reset and the step -/

theorem test_writeIn : (nextOf (hosted busy (.writeIn 1 0x8000))).map State.inWin = some [(0, 0x4000), (1, 0x8000)] := by decide
theorem test_writeOut_sorted :
    (nextOf (hosted { State.reset with outWin := [(3, 7)] } (.writeOut 1 9))).map State.outWin = some [(1, 9), (3, 7)] := by decide
theorem test_readOut : (nextOf (hosted busy (.readOut 2))).map State.seen = some [.outEntry 2 0x0000C000] := by decide
/-- A read of an unwritten entry is a draw, and leaves the entry unwritten (R57). -/
theorem test_readIn_unwritten : (nextOf (hosted busy (.readIn 9))).map (fun t => (t.inWin, t.draws)) = some (busy.inWin, 1) := by
  decide
theorem test_hostIndex : refusalOf (hosted (State.resetIn shallow) (.readIn 1024)) = some (.hostIndex 1024) := by decide
theorem test_hostOverlap : refusalOf (hosted { busy with cmdPort := some 0 } (.readIn 0)) = some .hostOverlap := by decide
/-- `rst` with a command outstanding: abandoned, and every register at its reset value (R220). -/
theorem test_rst : nextOf (hosted { busy with cmdPort := some 0x1100000000000000 } .rst) = some State.reset := by decide
/-- ST1 to ST4: the response to an illegal word, and no change. -/
theorem test_illegal :
    [0x0000000000000000, 0x1300000000000000, 0xFF00000000000000, 0x3000000600000000].map (ran busy) =
      List.replicate 4 (some { busy with seen := [.response 0x0100000000000000] }) := by decide
/-- A command word, written by the host in one step, is answered in the next (R70). -/
theorem test_command_then_response :
    ((nextOf (step { State.reset with host := [.act (.command 0x3100000000000000), .wait] })).bind fun t => nextOf (step t)) =
      some { State.reset with seen := [.response 0x0000000000004000] } := by decide

/-! ## Witnesses: the hypotheses of each statement, met together -/

theorem witness_EncodedCommandDecodesToItself :
    (Instr.bxLoad 0xFF).wellFormed Build.standard = true ∧ (Instr.srLoad 1 1).wellFormed narrow = true ∧
    (Instr.oscProcess 0xFFFF 0xFFFF true).wellFormed wide = true := by decide

theorem witness_DecodedWordIsTheEncoding :
    decode narrow 0x2000000100000001 = some (.srLoad 1 1) ∧ decode wide 0x20FFFFFFFFFFFFFF = some (.srLoad 0xFFFFFFFF 0xFFFFFF) ∧
    decode Build.standard 0x40000001FFFFFFFF = some (.oscProcess 0xFFFF 0xFFFF true) := by decide

theorem witness_OpcodeMapSaysWhatDecodes :
    Build.standard.Legal ∧ narrow.Legal ∧ wide.Legal ∧
    (∃ row ∈ opcodeMap Build.standard, row.matches 0x10000000000000FF = true) ∧
    (∃ row ∈ opcodeMap wide, row.matches 0x20FFFFFFFFFFFFFF = true) :=
  ⟨legal_standard, legal_narrow, legal_wide, ⟨_, List.mem_cons_self, by decide⟩,
    ⟨⟨"sr.load", 0x2000000000000000, 0xFF00000000000000⟩, by decide, by decide⟩⟩

/-- One word a clause, with the lowest reserved bit of each field set. -/
theorem witness_ReservedBitSetIsIllegal :
    (opcField 0x1000000100000000 = 0x10 ∧ (aField 0x1000000100000000).getLsbD 0 = true) ∧
    (opcField 0x1000000000000100 = 0x10 ∧ Build.standard.w ≤ 8 ∧ (dField 0x1000000000000100).getLsbD 8 = true) ∧
    (opcField 0x1200000000000001 ∈ [0x11#8, 0x12#8, 0x21#8, 0x22#8] ∧ (dField 0x1200000000000001).getLsbD 0 = true) ∧
    (opcField 0x2001000000000000 = 0x20 ∧ Build.standard.nw ≤ 16 ∧ (aField 0x2001000000000000).getLsbD 16 = true) ∧
    (opcField 0x2000000000000100 = 0x20 ∧ Build.standard.tw ≤ 8 ∧ (dField 0x2000000000000100).getLsbD 8 = true) ∧
    (opcField 0x3000000800000000 = 0x30 ∧ (aField 0x3000000800000000).getLsbD 3 = true) ∧
    (opcField 0x3000000200010000 = 0x30 ∧ ((aField 0x3000000200010000).extractLsb' 0 3).toNat ≤ 2 ∧
      (dField 0x3000000200010000).getLsbD 16 = true) ∧
    (opcField 0x3100000800000000 = 0x31 ∧ (aField 0x3100000800000000).getLsbD 3 = true) ∧
    (opcField 0x3100000080000000 = 0x31 ∧ (dField 0x3100000080000000).getLsbD 31 = true) ∧
    (opcField 0x4000000200000000 = 0x40 ∧ (aField 0x4000000200000000).getLsbD 1 = true) := by decide

theorem witness_UnassignedWordIsIllegal :
    opcField 0x4100000000000000 ∉ [0x10#8, 0x11#8, 0x12#8, 0x20#8, 0x21#8, 0x22#8, 0x30#8, 0x31#8, 0x40#8] ∧
    (opcField 0x3000000600000000 = 0x30 ∧ 6 ≤ ((aField 0x3000000600000000).extractLsb' 0 3).toNat) ∧
    (opcField 0x3100000700000000 = 0x31 ∧ (aField 0x3100000700000000).extractLsb' 0 3 = 7) := by decide

theorem witness_ByteViewIsLittleEndian : (7 : Nat) < (byteView 8 (0x4000000000040004 : BitVec (8 * 8))).length := by decide

theorem witness_AssembledCommandIsWellFormed :
    narrow.Legal ∧ assemble narrow "sr.load" [-1, 1] = some [.srLoad 1 1] ∧ Instr.srLoad 1 1 ∈ [Instr.srLoad 1 1] :=
  ⟨legal_narrow, by decide, by decide⟩

theorem witness_PseudoInstructionsExpand :
    1 ≤ (1 : BitVec 16).toNat ∧ (1 : BitVec 16).toNat ≤ (State.resetIn narrow).build.depth := by decide

/-- Both ends of R82's ranges. -/
theorem witness_PseudoInstructionsNameTheirCommands :
    (-2 ^ 15 ≤ (-32768 : Int) ∧ (-32768 : Int) ≤ 2 ^ 16 - 1) ∧ (-2 ^ 15 ≤ (65535 : Int) ∧ (65535 : Int) ≤ 2 ^ 16 - 1) ∧
    (-2 ^ 31 ≤ (-2147483648 : Int) ∧ (-2147483648 : Int) ≤ 2 ^ 32 - 1) ∧
    (-2 ^ 31 ≤ (4294967295 : Int) ∧ (4294967295 : Int) ≤ 2 ^ 32 - 1) ∧
    "osc.finish" ∈ ["osc.setoff", "osc.init", "osc.finish"] ∧
    assemble narrow "osc.finish" [65535] = some [.oscProcess 0 0xFFFF true] := by decide

/-- Two builds that agree on the widths alone. -/
theorem witness_DecodeReadsOnlyTheWidths :
    Build.standard.w = shallow.w ∧ Build.standard.tw = shallow.tw ∧ Build.standard.nw = shallow.nw ∧ Build.standard ≠ shallow := by
  decide

theorem witness_StepRunsTheDecodedCommand :
    (busy.withFetchWord 64 0x1100000000000000).cmdPort = some 0x1100000000000000 ∧
    decode (busy.withFetchWord 64 0x1100000000000000).build 0x1100000000000000 = some .bxPull ∧
    HostWaits (busy.withFetchWord 64 0x1100000000000000) := ⟨by decide, by decide, .inr rfl⟩

theorem witness_IllegalWordIsAnsweredIllegalCommand :
    (busy.withFetchWord 64 0).cmdPort = some 0 ∧ decode (busy.withFetchWord 64 0).build 0 = none ∧
    HostWaits (busy.withFetchWord 64 0) := ⟨by decide, by decide, .inr rfl⟩

/-- The hypothesis of EachCommandGetsOneResponse, ErrorStatusChangesNothing and StatusFollowsTheCause, for each status. -/
theorem witness_runWord_answers :
    (∃ t, runWord 0x1100000000000000 busy = .next t) ∧ (∃ t, runWord 0 busy = .next t) ∧
    (∃ t, runWord 0x3000000000002000 busy = .next t) ∧ (∃ t, runWord 0x40000000000107D0 (State.resetIn shallow) = .next t) ∧
    (∃ t, runWord 0x4000000004000000 (State.resetIn shallow) = .next t) := ⟨⟨_, rfl⟩, ⟨_, rfl⟩, ⟨_, rfl⟩, ⟨_, rfl⟩, ⟨_, rfl⟩⟩

/-- Each of the two ways of EveryCommandCompletes occurs. -/
theorem witness_EveryCommandCompletes :
    (∃ t, runWord 0x4000000000020002 busy = .next t) ∧
    (decode busy.build 0x4000000000030003 = some (.oscProcess 3 3 false) ∧ busy.inWin.read 2 = none ∧
      runWord 0x4000000000030003 busy = .fault (.uninitIn 2)) := ⟨⟨_, rfl⟩, by decide, by decide, rfl⟩

/-- A locked write, then a read. -/
theorem witness_FailedCommandLeavesNoTrace :
    ∃ t u r, runWord 0x3000000000002000 busy = .next t ∧ Responds busy t r ∧ opcField r ≠ 0 ∧
      runWord 0x3100000000000000 busy = .next u := ⟨_, _, 0x0200000000000000, rfl, ⟨rfl, rfl, rfl, rfl, rfl⟩, by decide, rfl⟩

theorem witness_IdleBlockKeepsItsState :
    busy.cmdPort = none ∧ HostWaits busy ∧ HostWaits { busy with host := [.wait] } := ⟨rfl, .inl rfl, .inr rfl⟩

theorem witness_ResetGivesTheResetValues :
    ({ busy with cmdPort := some 0, host := [.act .rst, .wait] } : State).host = .act .rst :: [.wait] := rfl

theorem witness_ResetMeetsTheInvariant : Build.standard.Legal ∧ narrow.Legal ∧ wide.Legal :=
  ⟨legal_standard, legal_narrow, legal_wide⟩

/-- A state with something in every field meets the invariant, and so does the largest build's with its cursor full. -/
theorem busy_inv : busy.Inv where
  legal := legal_standard
  acc_width := by decide
  rem_le := by decide
  acc_low := by decide
  val_width := by decide
  cnt_width := by decide
  in_wf := by decide
  in_within := by decide
  out_wf := by decide
  out_within := by decide
  started_of_finished := by decide
  responses := fun _ h => absurd h List.not_mem_nil

theorem wide_inv : State.Inv { State.resetIn wide with bx := ⟨0xFFFFFFFF, 32⟩, sr := ⟨0xFFFFFFFF, 0xFFFFFF⟩ } where
  legal := legal_wide
  acc_width := by decide
  rem_le := by decide
  acc_low := by decide
  val_width := by decide
  cnt_width := by decide
  in_wf := by decide
  in_within := by decide
  out_wf := by decide
  out_within := by decide
  started_of_finished := by decide
  responses := fun _ h => absurd h List.not_mem_nil

theorem busy_withFetchWord_inv (w : Nat) : (busy.withFetchWord 64 w).Inv :=
  ⟨busy_inv.legal, busy_inv.acc_width, busy_inv.rem_le, busy_inv.acc_low, busy_inv.val_width, busy_inv.cnt_width, busy_inv.in_wf,
    busy_inv.in_within, busy_inv.out_wf, busy_inv.out_within, busy_inv.started_of_finished, busy_inv.responses⟩

/-- For StepKeepsTheInvariant and StepKeepsTheBuild: a block's turn and a host's turn. -/
theorem witness_StepKeepsTheInvariant :
    (busy.withFetchWord 64 0x4000000000020002).Inv ∧ (∃ t, step (busy.withFetchWord 64 0x4000000000020002) = .next t) ∧
    (∃ t, step { busy with host := [.act (.writeOut 65535 7)] } = .next t) :=
  ⟨busy_withFetchWord_inv _, ⟨_, rfl⟩, ⟨_, rfl⟩⟩

/-- The step that sets both flags, and one that has them set. -/
theorem witness_OnlyResetClearsTheFlags :
    (∃ t, step (State.reset.withFetchWord 64 0x4000000100010000) = .next t ∧
      t.osc.started ≠ (State.reset.withFetchWord 64 0x4000000100010000).osc.started ∧
      t.osc.finished ≠ (State.reset.withFetchWord 64 0x4000000100010000).osc.finished) ∧
    NotResetNext (State.reset.withFetchWord 64 0x4000000100010000) ∧
    busy.osc.started = true ∧ busy.osc.finished = true ∧ NotResetNext busy ∧ (∃ t, step busy = .next t) :=
  ⟨⟨_, rfl, by decide, by decide⟩, by simp [NotResetNext], rfl, rfl, by simp [NotResetNext, busy, State.reset], ⟨_, rfl⟩⟩

/-- With a configuration write outstanding. -/
theorem witness_StartedConfigurationIsFrozen :
    (busy.withFetchWord 64 0x3000000000002000).osc.started = true ∧ NotResetNext (busy.withFetchWord 64 0x3000000000002000) ∧
    ∃ t, step (busy.withFetchWord 64 0x3000000000002000) = .next t  := ⟨rfl, by simp [NotResetNext], ⟨_, rfl⟩⟩

/-- One command of each unit, in two states that agree on that unit alone. -/
theorem witness_UnitsShareNothing :
    ((∃ t, exec .bxPull busy = .next t) ∧ BlockUnit.osc ≠ unitOf .bxPull) ∧
    (busy.build = { State.reset with bx := busy.bx }.build ∧ SameUnit (unitOf .bxPull) busy { State.reset with bx := busy.bx }) ∧
    (SameUnit (unitOf .srPull) busy { State.reset with sr := busy.sr } ∧ ∃ t, exec .srPull busy = .next t) ∧
    (SameUnit (unitOf (.oscProcess 2 2 true)) busy { busy with bx := Bx.reset, sr := Sr.reset } ∧
      ∃ t, exec (.oscProcess 2 2 true) busy = .next t) :=
  ⟨⟨⟨_, rfl⟩, by decide⟩, ⟨rfl, rfl⟩, ⟨rfl, _, rfl⟩, ⟨⟨rfl, rfl, rfl⟩, _, rfl⟩⟩

theorem witness_BxLoadStartsTheSequence :
    (Build.Legal narrow ∧ (1 : BitVec 32).toNat < 2 ^ narrow.w) ∧ (Build.Legal wide ∧ (0xFFFFFFFF : BitVec 32).toNat < 2 ^ wide.w) ∧
    (opcField 0x1000000100000000 = 0x10 ∧ aField 0x1000000100000000 ≠ 0) ∧
    (opcField 0x1000000000000100 = 0x10 ∧ 2 ^ Build.standard.w ≤ (dField 0x1000000000000100).toNat) :=
  ⟨⟨legal_narrow, by decide⟩, ⟨legal_wide, by decide⟩, by decide, by decide⟩

/-- The exhausted cursor, the last bit, and the widest build. -/
theorem witness_BxPullEmitsTheTopBit :
    (State.reset.build.Legal ∧ State.reset.bx.rem = 0) ∧
    ({ State.reset with bx := ⟨0x80, 1⟩ }.build.Legal ∧ ({ State.reset with bx := ⟨0x80, 1⟩ } : State).bx.rem ≠ 0) ∧
    ((State.resetIn wide).build.Legal ∧ ({ State.resetIn wide with bx := ⟨0x80000001, 32⟩ } : State).bx.rem ≠ 0) ∧
    (opcField 0x1100000000000001 = 0x11 ∧ dField 0x1100000000000001 ≠ 0) :=
  ⟨⟨legal_standard, rfl⟩, ⟨legal_standard, by decide⟩, ⟨legal_wide, by decide⟩, by decide⟩

theorem witness_BxStatReadsTheCursor :
    (opcField 0x1200000100000000 = 0x12 ∧ aField 0x1200000100000000 ≠ 0) ∧
    (opcField 0x1200000000000001 = 0x12 ∧ dField 0x1200000000000001 ≠ 0) := by decide

/-- A sequence of pulls with a command of another unit in between. -/
theorem witness_BxPullsEmitTheBitsMsbFirst :
    Build.Legal Build.standard ∧ (0x55 : BitVec 32).toNat < 2 ^ Build.standard.w ∧
    ∃ s0, exec (.bxLoad 0x55) State.reset = .next s0 ∧
      (∀ i ∈ [Instr.bxPull, .srPull], i = .bxPull ∨ unitOf i ≠ .bx) ∧ ∃ t, runCommands ([.bxPull, .srPull] ++ [.bxPull]) s0 = some t :=
  ⟨legal_standard, by decide, _, rfl, by decide, _, rfl⟩

theorem witness_SrLoadStartsTheRun :
    ((0xFF : BitVec 32).toNat < 2 ^ Build.standard.tw ∧ (0 : BitVec 24).toNat < 2 ^ Build.standard.nw) ∧
    ((0xFFFFFFFF : BitVec 32).toNat < 2 ^ wide.tw ∧ (0xFFFFFF : BitVec 24).toNat < 2 ^ wide.nw) ∧
    (opcField 0x2001000000000000 = 0x20 ∧ 2 ^ Build.standard.nw ≤ (aField 0x2001000000000000).toNat) ∧
    (opcField 0x2000000000000100 = 0x20 ∧ 2 ^ Build.standard.tw ≤ (dField 0x2000000000000100).toNat) := by decide

theorem witness_SrPullEmitsTheSymbol :
    State.reset.sr.cnt = 0 ∧ ({ State.reset with sr := ⟨0, 1⟩ } : State).sr.cnt ≠ 0 ∧
    (opcField 0x2100000100000000 = 0x21 ∧ aField 0x2100000100000000 ≠ 0) := by decide

theorem witness_SrStatReadsTheCursor :
    (opcField 0x2200000100000000 = 0x22 ∧ aField 0x2200000100000000 ≠ 0) ∧
    (opcField 0x2200000000000001 = 0x22 ∧ dField 0x2200000000000001 ≠ 0) := by decide

/-- A run of one, pulled once and once again, and a run of none. -/
theorem witness_SrPullsEmitTheRun :
    ((1 : BitVec 32).toNat < 2 ^ Build.standard.tw ∧ (1 : BitVec 24).toNat < 2 ^ Build.standard.nw) ∧
    (∃ s0, exec (.srLoad 1 1) State.reset = .next s0 ∧ (∀ i ∈ [Instr.srPull, .bxPull], i = .srPull ∨ unitOf i ≠ .sr) ∧
      ∃ t, runCommands ([.srPull, .bxPull] ++ [.srPull]) s0 = some t) ∧
    (∃ s0, exec (.srLoad 1 0) State.reset = .next s0 ∧ ∃ t, runCommands ([] ++ [.srPull]) s0 = some t) :=
  ⟨by decide, ⟨_, rfl, by decide, _, rfl⟩, ⟨_, rfl, _, rfl⟩⟩

theorem witness_FlattenedPayloadIsTheRepeatedBits :
    Build.Legal Build.standard ∧ (∀ v ∈ [0x55#32, 0xFF#32], v.toNat < 2 ^ Build.standard.w) ∧
    (556 : BitVec 24).toNat < 2 ^ Build.standard.nw := ⟨legal_standard, by simp [Build.standard], by simp [Build.standard]⟩

/-- The lock's two sides, and one word for each of the two reserved forms; the second is a register index. -/
theorem witness_ConfigurationWritesAndTheirLock :
    configured.osc.started = false ∧ busy.osc.started = true ∧
    (opcField 0x3000000600000000 = 0x30 ∧ 6 ≤ (aField 0x3000000600000000).toNat) ∧
    (opcField 0x3000000200010000 = 0x30 ∧ (aField 0x3000000200010000).toNat ≤ 2 ∧ 2 ^ 16 ≤ (dField 0x3000000200010000).toNat) := by
  decide

theorem witness_LastConfigurationWriteWins :
    configured.osc.started = false ∧ ∀ i ∈ [Instr.oscSetamp 0x2000, .oscSetphase 7, .oscSetamp 0x1000], i.opc = 0x30 := by decide

theorem witness_ReadsReportTheRegisters :
    (opcField 0x3100000700000000 = 0x31 ∧ 7 ≤ (aField 0x3100000700000000).toNat) ∧
    (opcField 0x3100000000000001 = 0x31 ∧ dField 0x3100000000000001 ≠ 0) := by decide

/-- Two phases that agree in bits 31:20. -/
theorem witness_DefaultPtsRangeAndQuarterTurn :
    (0x000FFFFF : Phase).extractLsb' 20 12 = (0 : Phase).extractLsb' 20 12 := by decide

theorem witness_EveryTotalFunctionIsSomePts :
    fourPoint.pts.total = true ∧ (PtsChoice.table 0 [(7, 9)]).total = true ∧ fourPoint.Legal := ⟨by decide, by decide, legal_fourPoint⟩

/-- Every clause of ProcessRunsTheKernel and of UnwrittenEntries: a window of the whole `DEPTH`, no sample at all, a window too
long on either side, an unwritten entry after written ones, and a reserved bit. -/
theorem witness_ProcessRunsTheKernel :
    (∃ s : State, (1 : BitVec 16).toNat ≤ s.build.depth ∧ s.build = narrow ∧ HoldsIn s [0x4000] ∧
      [0x4000#16].length = min (1 : BitVec 16).toNat (1 : BitVec 16).toNat) ∧
    (HoldsIn busy [] ∧ ([] : List Q214).length = min (0 : BitVec 16).toNat (0xFFFF : BitVec 16).toNat ∧
      (0xFFFF : BitVec 16).toNat ≤ busy.build.depth) ∧
    (HoldsIn busy [0x4000, 0x4000] ∧ [0x4000#16, 0x4000#16].length = min (2 : BitVec 16).toNat (5 : BitVec 16).toNat) ∧
    (shallow.depth < (1025 : BitVec 16).toNat ∧ narrow.depth < (2 : BitVec 16).toNat) ∧
    ((3 : BitVec 16).toNat ≤ busy.build.depth ∧ 2 < min (3 : BitVec 16).toNat (3 : BitVec 16).toNat ∧ busy.inWin.read 2 = none ∧
      ∀ j < 2, busy.inWin.read j ≠ none) ∧
    (opcField 0x4000000200000000 = 0x40 ∧ 2 ≤ (aField 0x4000000200000000).toNat) := by
  refine ⟨⟨{ State.resetIn narrow with inWin := [(0, 0x4000)] }, by decide, rfl, ?_, by decide⟩, ⟨?_, by decide, by decide⟩,
    ⟨?_, by decide⟩, by decide, by decide, by decide⟩
  · intro k h; match k, h with | 0, _ => rfl
  · intro k h; exact absurd h (by simp)
  · intro k h; match k, h with | 0, _ => rfl | 1, _ => rfl

/-- For ProcessFrame and TerminationAndCounts: commands that answer, with and without samples, that end a stream and do not. -/
theorem witness_ProcessFrame :
    (∃ t, exec (.oscProcess 2 2 true) busy = .next t) ∧ (∃ t, exec (.oscProcess 0 1 true) State.reset = .next t) ∧
    (∃ t, exec (.oscProcess 1 2 false) busy = .next t) ∧
    (1 : BitVec 16).toNat ≤ State.reset.build.depth := ⟨⟨_, rfl⟩, ⟨_, rfl⟩, ⟨_, rfl⟩, by decide⟩

/-- A host read of an unwritten entry at the last index. -/
theorem witness_UnwrittenEntries :
    busy.cmdPort = none ∧ (0xFFFF : Index).toNat < busy.build.depth ∧
    busy.inWin.read (0xFFFF : Index).toNat = none ∧ busy.outWin.read (0xFFFF : Index).toNat = none := by decide

/-- A window too long; the default `DEPTH`; windows of exactly `DEPTH` entries, written. -/
theorem witness_WindowRangeIsRefusedWhole :
    (1 : BitVec 16).toNat ≤ narrow.depth ∧ (∀ k < min (1 : BitVec 16).toNat (1 : BitVec 16).toNat, busy.inWin.read k ≠ none) ∧
    (State.resetIn shallow).build.depth < (0x07D0 : BitVec 16).toNat ∧ Build.standard.depth = 65536 := by decide

/-- Two states that agree on entry 0 and differ in entry 1, cut into windows of different lengths, at `m` = 1. -/
theorem witness_OutputDependsOnEarlierSamplesOnly :
    let s := { configured with inWin := [(0, 0x4000), (1, 0x4000)] }
    let s' := { configured with inWin := [(0, 0x4000), (1, 0x8000), (2, 0)] }
    s.build = s'.build ∧ s.osc = s'.osc ∧ (∀ k < 1, s.inWin.read k = s'.inWin.read k) ∧ s.inWin.read 1 ≠ s'.inWin.read 1 ∧
    (∃ t, exec (.oscProcess 2 2 false) s = .next t) ∧ (∃ t, exec (.oscProcess 3 4 true) s' = .next t) ∧
    (4 : BitVec 16).toNat ≤ s.build.depth ∧ 1 < min (2 : BitVec 16).toNat (2 : BitVec 16).toNat :=
  ⟨rfl, rfl, by decide, by decide, ⟨_, rfl⟩, ⟨_, rfl⟩, by decide, by decide⟩

/-- PR9's two windows, the first with input left over, and an empty one. -/
theorem witness_WindowingDoesNotChangeTheStream :
    ∀ w ∈ [Window.mk [0x4000, 0x4000, 0x4000] 5 3 true, ⟨[], 0, 4, false⟩, ⟨[0x4000, 0x4000], 2, 4, true⟩],
      w.fits Build.standard := by
  simp [Window.fits, Build.standard]

theorem witness_ZeroCoefficientHoldsThePhase :
    let s := withIn [0x1234, 0x8000]
    s.osc.coeff = 0 ∧ (2 : BitVec 16).toNat ≤ s.build.depth ∧ 0 < [0x1234#16, 0x8000#16].length ∧ [0x1234#16, 0x8000#16].length = min (2 : BitVec 16).toNat (5 : BitVec 16).toNat ∧
    HoldsIn s [0x1234, 0x8000] ∧ s.build.pts = .quadrature ∧ s.osc = Osc.reset := by
  refine ⟨rfl, by decide, by decide, by decide, ?_, rfl, rfl⟩
  intro k h; match k, h with | 0, _ => rfl | 1, _ => rfl

/-- A window operation at the last index of the smallest and of the default build, on a written entry for the reads. -/
theorem witness_HostWindowOperations :
    ((State.resetIn narrow).cmdPort = none ∧ (0 : Index).toNat < (State.resetIn narrow).build.depth) ∧
    ((0xFFFF : Index).toNat < busy.build.depth) ∧ (busy.inWin.read (1 : Index).toNat = some 0x4000) ∧
    (busy.outWin.read (2 : Index).toNat = some 0x0000C000) := by decide

/-- `a` = DEPTH, an overlapping operation, and a command with none outstanding. -/
theorem witness_HostMovesOutsideItsDuties :
    ((State.resetIn shallow).cmdPort = none ∧ (State.resetIn shallow).build.depth ≤ (1024 : Index).toNat) ∧
    (({ busy with cmdPort := some 0, host := [.act (.command 1)] } : State).cmdPort = some 0 ∧ HostOp.command 1 ≠ .rst) ∧
    ({ busy with host := [.act (.command 1)] } : State).cmdPort = none := by decide

/-- The host writes IN, the host writes OUT, and the block writes OUT. -/
theorem witness_WhoWritesTheWindows :
    (∃ t, step { busy with host := [.act (.writeIn 0 1)] } = .next t ∧ t.inWin.read 0 ≠ busy.inWin.read 0) ∧
    (∃ t, step { busy with host := [.act (.writeOut 0 1)] } = .next t ∧ t.outWin.read 0 ≠ busy.outWin.read 0) ∧
    (∃ t, step (busy.withFetchWord 64 0x4000000000010001) = .next t ∧ t.outWin.read 0 ≠ busy.outWin.read 0) ∧
    NotResetNext (busy.withFetchWord 64 0x4000000000010001) :=
  ⟨⟨_, rfl, by decide⟩, ⟨_, rfl, by decide⟩, ⟨_, rfl, by decide +kernel⟩, by simp [NotResetNext]⟩

end Sys2Proof.Tests
end

/-! # The build, the decoded command, and the units

PROOFS of the family 00_scope.md: every word completes, no step changes the build, the units share nothing, and `PTS` is
any total function. -/

namespace Sys2Proof.Machine

/-! ### Running a word -/

theorem runWord_of_decode {s : State} {c : Word} {i : Instr} (h : decode s.build c = some i) :
    runWord c s = exec i s := by
  simp only [runWord, h]

theorem runWord_of_undecodable {s : State} {c : Word} (h : decode s.build c = none) :
    runWord c s = .next (s.raise .illegalCommand) := by
  simp only [runWord, h]

theorem serve_of_outstanding {s : State} {c : Word} (h : s.cmdPort = some c) : serve s = runWord c s := by
  simp only [serve, h]

/-- While the host waits, a step is the block's turn. -/
theorem step_of_hostWaits {s : State} (h : HostWaits s) : step s = serve { s with host := s.host.tail } := by
  rcases step_cases s with ⟨_, hs⟩ | ⟨op, rest, hact, _⟩
  · exact hs
  · simp [HostWaits, hact] at h

/-- `withFetchWord` gives the block the turn, and the word to run. -/
theorem step_withFetchWord (s : State) (c : Word) :
    step (s.withFetchWord 64 c.toNat) = runWord c { s with cmdPort := some c } := by
  have hport : BitVec.ofNat 64 (c.toNat % 2 ^ 64) = c := by
    rw [Nat.mod_eq_of_lt c.isLt, BitVec.ofNat_toNat, BitVec.setWidth_eq]
  rw [step_of_hostWaits (.inr rfl), State.withFetchWord, hport]
  rfl

/-- Settles O11: the step is the block's turn, and the turn runs the outstanding word. -/
theorem stepRunsTheDecodedCommand : Obligations.StepRunsTheDecodedCommand := by
  unfold Obligations.StepRunsTheDecodedCommand
  intro s c i hc hd
  refine ⟨fun hw => ?_, ?_⟩
  · have hrun : runWord c { s with host := s.host.tail } = exec i { s with host := s.host.tail } := runWord_of_decode hd
    rw [step_of_hostWaits hw, ← hrun]
    exact serve_of_outstanding hc
  · have hs : { s with cmdPort := some c } = s := by rw [← hc]
    rw [step_withFetchWord, hs, runWord_of_decode hd]

/-- Settles O14: a word that decodes does what `exec_cases` says, and any other word is answered. -/
theorem everyCommandCompletes : Obligations.EveryCommandCompletes := by
  unfold Obligations.EveryCommandCompletes
  intro s c
  cases hd : decode s.build c with
  | none => exact .inl ⟨_, runWord_of_undecodable hd⟩
  | some i =>
    rw [runWord_of_decode hd]
    rcases exec_cases i s with ⟨u, st, aux, data, h, _⟩ | ⟨ni, no, eoi, k, rfl, hk, hr, h⟩
    · exact .inl ⟨_, h⟩
    · exact .inr ⟨ni, no, eoi, k, rfl, hk, hr, h⟩

/-! ### The build -/

theorem exec_build {i : Instr} {s t : State} (h : exec i s = .next t) : t.build = s.build := by
  rcases exec_cases i s with ⟨u, st, aux, data, hu, hb, _⟩ | ⟨ni, no, eoi, k, _, _, _, hf⟩
  · cases hu.symm.trans h
    exact hb
  · cases hf.symm.trans h

theorem serve_build {s t : State} (h : serve s = .next t) : t.build = s.build := by
  rcases serve_cases s with ⟨_, hs⟩ | ⟨c, _, ⟨i, _, hs⟩ | ⟨_, hs⟩⟩
  · cases hs.symm.trans h
    rfl
  · exact exec_build (hs ▸ h)
  · cases hs.symm.trans h
    rfl

@[simp] theorem hostReadIn_build (a : Index) (s : State) : (hostReadIn a s).build = s.build := by
  obtain ⟨v, d, hr⟩ := hostReadIn_cases a s
  rw [hr]

@[simp] theorem hostReadOut_build (a : Index) (s : State) : (hostReadOut a s).build = s.build := by
  obtain ⟨v, d, hr⟩ := hostReadOut_cases a s
  rw [hr]

theorem hostAct_build {op : HostOp} {s t : State} (h : hostAct op s = .next t) : t.build = s.build := by
  rcases hostAct_cases h with
    ⟨_, rfl⟩ | ⟨_, ⟨a, v, _, _, rfl⟩ | ⟨a, v, _, _, rfl⟩ | ⟨a, _, _, rfl⟩ | ⟨a, _, _, rfl⟩ | ⟨c, _, rfl⟩⟩
  · exact resetBlock_build s
  · rfl
  · rfl
  · exact hostReadIn_build a s
  · exact hostReadOut_build a s
  · rfl

/-- Settles O22: neither the block's turn nor the host's touches the build. -/
theorem stepKeepsTheBuild : Obligations.StepKeepsTheBuild := by
  unfold Obligations.StepKeepsTheBuild
  intro s t h
  rcases step_cases s with ⟨_, hs⟩ | ⟨op, rest, _, hs⟩
  · exact serve_build (s := { s with host := s.host.tail }) (hs ▸ h)
  · exact hostAct_build (s := { s with host := rest }) (hs ▸ h)

/-! ### `PTS` -/

/-- The table of all `2^32` values of a function of the phase (log entry 2, DESIGN CHOICE). -/
def tabulatedPts (f : Phase → Q214 × Q214) : PtsChoice :=
  .table 32 (List.ofFn fun i : Fin (2 ^ 32) => f (BitVec.ofFin i))

theorem tabulatedPts_total (f : Phase → Q214 × Q214) : (tabulatedPts f).total = true :=
  (total_table_iff 32 _).2 ⟨le_rfl, List.length_ofFn⟩

theorem pts_tabulatedPts (f : Phase → Q214 × Q214) (p : Phase) : pts (tabulatedPts f) p = f p := by
  have hp : tableIndex 32 p < (List.ofFn fun i : Fin (2 ^ 32) => f (BitVec.ofFin i)).length := by
    rw [tableIndex_whole, List.length_ofFn]
    exact p.isLt
  rw [tabulatedPts, pts_table, ptsTable_of_lt hp, List.getElem_ofFn]
  simp only [tableIndex_whole]
  rfl

theorem legal_withPts {b : Build} (hb : b.Legal) {choice : PtsChoice} (h : choice.total = true) :
    ({ b with pts := choice } : Build).Legal :=
  { hb with pts_total := h }

/-- A total table has its entry for every phase, and `PTS` gives it. -/
theorem getElem?_eq_pts_table {bits : Nat} {entries : List (Q214 × Q214)} (h : (PtsChoice.table bits entries).total = true)
    (p : Phase) : entries[tableIndex bits p]? = some (pts (.table bits entries) p) := by
  obtain ⟨hbits, hlen⟩ := (total_table_iff bits entries).1 h
  have hlt : tableIndex bits p < entries.length := hlen ▸ tableIndex_lt hbits p
  rw [List.getElem?_eq_getElem hlt, pts_table, ptsTable_of_lt hlt]

/-- Settles O56: a total table is read where it has an entry, and the table of all `2^32` values of `f` is `f`. -/
theorem everyTotalFunctionIsSomePts : Obligations.EveryTotalFunctionIsSomePts := by
  unfold Obligations.EveryTotalFunctionIsSomePts
  refine ⟨fun bits entries p h => getElem?_eq_pts_table h p, fun f b hb => ?_⟩
  exact ⟨tabulatedPts f, legal_withPts hb (tabulatedPts_total f), pts_tabulatedPts f⟩

/-! ### The units -/

/-- `r` with the state of unit `u`, and the build, taken from `s`: the surroundings of `r` around the unit of `s`. -/
def State.withUnit (r : State) (u : BlockUnit) (s : State) : State :=
  match u with
  | .bx => { r with build := s.build, bx := s.bx }
  | .sr => { r with build := s.build, sr := s.sr }
  | .osc => { r with build := s.build, osc := s.osc, inWin := s.inWin, outWin := s.outWin }

/-- Taking over a unit that is the same already changes nothing. -/
theorem withUnit_eq {u : BlockUnit} {r s : State} (hb : s.build = r.build) (hu : SameUnit u s r) : r.withUnit u s = r := by
  cases u with
  | bx => rw [State.withUnit, hb, show s.bx = r.bx from hu]
  | sr => rw [State.withUnit, hb, show s.sr = r.sr from hu]
  | osc =>
    obtain ⟨hosc, hin, hout⟩ := hu
    rw [State.withUnit, hb, hosc, hin, hout]

theorem sameUnit_refl (u : BlockUnit) (s : State) : SameUnit u s s := by
  cases u with
  | bx | sr => rfl
  | osc => exact ⟨rfl, rfl, rfl⟩

/-- `r` after its unit `u` has come to its state in `t` and answered a command with the word `w`. -/
def State.afterUnit (r : State) (u : BlockUnit) (t : State) (w : Word) : State :=
  { r.withUnit u t with cmdPort := none, seen := r.seen ++ [.response w] }

theorem sameUnit_afterUnit (u : BlockUnit) (r t : State) (w : Word) : SameUnit u t (r.afterUnit u t w) := by
  cases u with
  | bx | sr => rfl
  | osc => exact ⟨rfl, rfl, rfl⟩

theorem sameUnit_afterUnit_of_ne {u v : BlockUnit} (huv : u ≠ v) (r t : State) (w : Word) :
    SameUnit u r (r.afterUnit v t w) := by
  cases u with
  | bx => cases v with
    | bx => exact absurd rfl huv
    | sr | osc => rfl
  | sr => cases v with
    | sr => exact absurd rfl huv
    | bx | osc => rfl
  | osc => cases v with
    | osc => exact absurd rfl huv
    | bx | sr => exact ⟨rfl, rfl, rfl⟩

theorem responds_afterUnit (u : BlockUnit) {r t : State} (hb : t.build = r.build) (w : Word) :
    Responds r (r.afterUnit u t w) w := by
  cases u <;> exact ⟨rfl, rfl, hb, rfl, rfl⟩

/-- `f` takes `s` to `t` with the answer `w` by unit `u` alone (R2, R204): put into any surroundings, the unit comes to the same
new state and gives the same answer, and the surroundings stay. -/
structure AnswersByUnit (u : BlockUnit) (f : State → Host.Outcome State Fault Refusal) (s t : State) (w : Word) : Prop where
  responds : Responds s t w
  anywhere : ∀ r : State, f (r.withUnit u s) = .next (r.afterUnit u t w)

theorem configWrite_byOsc (s : State) (f : Osc → Osc) :
    ∃ w, AnswersByUnit .osc (fun s => .next (configWrite s (f s.osc))) s (configWrite s (f s.osc)) w := by
  cases hst : s.osc.started with
  | true =>
    rw [configWrite_started hst]
    exact ⟨_, responds_answer _ _ _ _, fun r => congrArg _ (configWrite_started (s := r.withUnit .osc s) hst _)⟩
  | false =>
    rw [configWrite_construction hst]
    exact ⟨_, ⟨rfl, rfl, rfl, rfl, rfl⟩, fun r => congrArg _ (configWrite_construction (s := r.withUnit .osc s) hst _)⟩

/-- The sample loop runs the same in any surroundings. -/
theorem sampleLoop_withUnit {n k : Nat} {s t : State} (h : sampleLoop n k s = .next t) (r : State) :
    sampleLoop n k (r.withUnit .osc s) = .next (r.withUnit .osc t) := by
  induction n generalizing k s with
  | zero =>
    cases h
    rfl
  | succ n ih =>
    cases hk : s.inWin.read k with
    | none =>
      simp only [sampleLoop, sampleStep_unwritten hk] at h
      cases h
    | some c =>
      have hk' : (r.withUnit .osc s).inWin.read k = some c := hk
      simp only [sampleLoop, sampleStep_written hk] at h
      simp only [sampleLoop, sampleStep_written hk']
      exact ih h

theorem execOscProcess_byOsc {ni no : BitVec 16} {eoi : Bool} {s t : State} (h : execOscProcess ni no eoi s = .next t) :
    ∃ w, AnswersByUnit .osc (execOscProcess ni no eoi) s t w := by
  rcases execOscProcess_cases ni no eoi s with ⟨hd, hs⟩ | ⟨hni, hno, ⟨u, hloop, fr, hs⟩ | ⟨k, _, _, _, hs⟩⟩
  · cases hs.symm.trans h
    exact ⟨_, responds_answer _ _ _ _, fun r => if_pos hd⟩
  · cases hs.symm.trans h
    refine ⟨_, ⟨by rw [finishProcess_seen, fr.seen], rfl, fr.build, fr.host, fr.draws⟩, fun r => ?_⟩
    have hd : ¬((r.withUnit .osc s).build.depth < ni.toNat ∨ (r.withUnit .osc s).build.depth < no.toNat) :=
      not_or.2 ⟨hni.not_gt, hno.not_gt⟩
    rw [execOscProcess, if_neg hd, sampleLoop_withUnit hloop]
    rfl
  · cases hs.symm.trans h

/-- A command that answers does so by its own unit alone (R2, R204). -/
theorem exec_byUnit {i : Instr} {s t : State} (h : exec i s = .next t) : ∃ w, AnswersByUnit (unitOf i) (exec i) s t w := by
  cases i with
  | bxPull =>
    by_cases hr : s.bx.rem.toNat = 0
    · cases (execBxPull_exhausted hr).symm.trans h
      exact ⟨_, responds_answer _ _ _ _, fun r => execBxPull_exhausted (s := r.withUnit .bx s) hr⟩
    · cases (execBxPull_emits hr).symm.trans h
      exact ⟨_, ⟨rfl, rfl, rfl, rfl, rfl⟩, fun r => execBxPull_emits (s := r.withUnit .bx s) hr⟩
  | srPull =>
    by_cases hc : s.sr.cnt.toNat = 0
    · cases (execSrPull_exhausted hc).symm.trans h
      exact ⟨_, responds_answer _ _ _ _, fun r => execSrPull_exhausted (s := r.withUnit .sr s) hc⟩
    · cases (execSrPull_emits hc).symm.trans h
      exact ⟨_, ⟨rfl, rfl, rfl, rfl, rfl⟩, fun r => execSrPull_emits (s := r.withUnit .sr s) hc⟩
  | oscSetamp v =>
    cases h
    exact configWrite_byOsc s fun o => { o with amp := v }
  | oscSetoffi v =>
    cases h
    exact configWrite_byOsc s fun o => { o with offi := v }
  | oscSetoffq v =>
    cases h
    exact configWrite_byOsc s fun o => { o with offq := v }
  | oscSetcoeff v =>
    cases h
    exact configWrite_byOsc s fun o => { o with coeff := v }
  | oscSetphase v =>
    cases h
    exact configWrite_byOsc s fun o => { o with phase := v }
  | oscSetfreq v =>
    cases h
    exact configWrite_byOsc s fun o => { o with freq := v }
  | oscProcess => exact execOscProcess_byOsc h
  | bxLoad | bxStat | srLoad | srStat | oscRdamp | oscRdoffi | oscRdoffq | oscRdcoeff | oscRdphase | oscRdfreq | oscRdstat =>
    cases h
    exact ⟨_, ⟨rfl, rfl, rfl, rfl, rfl⟩, fun r => rfl⟩

/-- What an answer by unit `u` makes of any state that agrees on the unit. -/
theorem AnswersByUnit.of_sameUnit {u : BlockUnit} {f : State → Host.Outcome State Fault Refusal} {s s' t : State} {w : Word}
    (h : AnswersByUnit u f s t w) (hb : s.build = s'.build) (hu : SameUnit u s s') : f s' = .next (s'.afterUnit u t w) := by
  rw [← h.anywhere s', withUnit_eq hb hu]

/-- Settles O25: a command answers by its unit alone, seen from its own surroundings and from those of `s'`. -/
theorem unitsShareNothing : Obligations.UnitsShareNothing := by
  unfold Obligations.UnitsShareNothing
  refine ⟨fun i s t u h hu => ?_, fun i s s' t hb hs h => ?_⟩
  · obtain ⟨w, hw⟩ := exec_byUnit h
    have hown : exec i s = .next (s.afterUnit (unitOf i) t w) := hw.of_sameUnit rfl (sameUnit_refl _ s)
    have ht : t = s.afterUnit (unitOf i) t w := by simpa [h] using hown
    rw [ht]
    exact sameUnit_afterUnit_of_ne hu s t w
  · obtain ⟨w, hw⟩ := exec_byUnit h
    exact ⟨_, w, hw.of_sameUnit hb hs, sameUnit_afterUnit _ s' t w, hw.responds,
      responds_afterUnit _ (hw.responds.build.trans hb) w⟩

end Sys2Proof.Machine

/-! # The invariant, the flags, the lock, and the frequency

PROOFS of the family 10_state.md: reset meets the invariant and every step keeps it, only `osc.process` sets a flag and only reset
clears one, OSC_STARTED freezes the configuration, and an `osc.process` never steps the phase by the frequency it finds. -/

namespace Sys2Proof.Machine

/-! ### The cursors -/

/-- BX as the invariant wants it in a build with `W = w` (R23, R25, R104). -/
structure Bx.Fits (w : Nat) (b : Bx) : Prop where
  acc_width : b.acc.toNat < 2 ^ w
  rem_le : b.rem.toNat ≤ w
  acc_low : 2 ^ (w - b.rem.toNat) ∣ b.acc.toNat

/-- SR as the invariant wants it in a build with `TW = tw` and `NW = nw` (R26, R27). -/
structure Sr.Fits (tw nw : Nat) (r : Sr) : Prop where
  val_width : r.val.toNat < 2 ^ tw
  cnt_width : r.cnt.toNat < 2 ^ nw

theorem toNat_lowBits_lt (n k x : Nat) : (lowBits n k x).toNat < 2 ^ k := by
  rw [lowBits, BitVec.toNat_ofNat]
  exact (Nat.mod_le _ _).trans_lt (Nat.mod_lt _ (by positivity))

/-- A fresh sequence fills BX_ACC, so nothing need be zero below it (R102). -/
theorem Bx.fits_load {w : Nat} (hw : w ≤ 32) (x : Nat) : Bx.Fits w { acc := lowBits 32 w x, rem := BitVec.ofNat 6 w } := by
  have hrem : (BitVec.ofNat 6 w).toNat = w := by
    rw [BitVec.toNat_ofNat, Nat.mod_eq_of_lt (by omega)]
  exact ⟨toNat_lowBits_lt _ _ _, hrem.le, by simp [hrem]⟩

/-- A pull shifts one more zero into the lower end of BX_ACC, and leaves one bit fewer (R103). -/
theorem Bx.Fits.pull {w : Nat} {b : Bx} (h : b.Fits w) (hw : w ≤ 32) (hr : b.rem.toNat ≠ 0) :
    Bx.Fits w { acc := lowBits 32 w (b.acc.toNat * 2), rem := b.rem - 1 } := by
  have hle := h.rem_le
  have hrem : (b.rem - 1).toNat = b.rem.toNat - 1 := toNat_sub_one b.rem (by norm_num) hr
  refine ⟨toNat_lowBits_lt _ _ _, by simp only [hrem]; omega, ?_⟩
  simp only [hrem, lowBits_toNat _ hw]
  rw [Nat.dvd_mod_iff (Nat.pow_dvd_pow 2 (Nat.sub_le _ _)), show w - (b.rem.toNat - 1) = w - b.rem.toNat + 1 by omega, pow_succ]
  exact Nat.mul_dvd_mul_right h.acc_low 2

theorem Sr.Fits.pull {tw nw : Nat} {r : Sr} (h : r.Fits tw nw) (hc : r.cnt.toNat ≠ 0) :
    Sr.Fits tw nw { r with cnt := r.cnt - 1 } := by
  have hcnt : (r.cnt - 1).toNat = r.cnt.toNat - 1 := toNat_sub_one r.cnt (by norm_num) hc
  refine ⟨h.val_width, ?_⟩
  rw [hcnt]
  exact (Nat.sub_le _ _).trans_lt h.cnt_width

/-! ### The invariant, one field at a time -/

theorem State.Inv.bx_fits {s : State} (h : s.Inv) : s.bx.Fits s.build.w := ⟨h.acc_width, h.rem_le, h.acc_low⟩

theorem State.Inv.sr_fits {s : State} (h : s.Inv) : s.sr.Fits s.build.tw s.build.nw := ⟨h.val_width, h.cnt_width⟩

/-- The invariant does not speak of the command port, the host's plan and the count of draws. -/
theorem State.Inv.withPorts {s : State} (h : s.Inv) (port : Option Word) (plan : List HostTurn) (d : Nat) :
    State.Inv { s with cmdPort := port, host := plan, draws := d } := { h with }

theorem State.Inv.withBx {s : State} (h : s.Inv) {b : Bx} (hb : b.Fits s.build.w) : State.Inv { s with bx := b } :=
  { h with acc_width := hb.acc_width, rem_le := hb.rem_le, acc_low := hb.acc_low }

theorem State.Inv.withSr {s : State} (h : s.Inv) {r : Sr} (hr : r.Fits s.build.tw s.build.nw) :
    State.Inv { s with sr := r } :=
  { h with val_width := hr.val_width, cnt_width := hr.cnt_width }

theorem State.Inv.withOsc {s : State} (h : s.Inv) {o : Osc} (ho : o.finished = true → o.started = true) :
    State.Inv { s with osc := o } :=
  { h with started_of_finished := ho }

theorem State.Inv.withInWin {s : State} (h : s.Inv) {m : Memory Q214} (hw : m.wf) (hi : m.within s.build.depth) :
    State.Inv { s with inWin := m } :=
  { h with in_wf := hw, in_within := hi }

theorem State.Inv.withOutWin {s : State} (h : s.Inv) {m : Memory Quad} (hw : m.wf) (hi : m.within s.build.depth) :
    State.Inv { s with outWin := m } :=
  { h with out_wf := hw, out_within := hi }

theorem State.Inv.observe {s : State} (h : s.Inv) {o : Observation} (ho : ∀ r, o = .response r → legalResponse r = true) :
    State.Inv { s with seen := s.seen ++ [o] } where
  __ := h
  responses r hr := by
    rcases List.mem_append.1 hr with hr | hr
    · exact h.responses r hr
    · exact ho r (List.mem_singleton.1 hr).symm

theorem State.Inv.answer {s : State} (h : s.Inv) {st : Status} {aux : BitVec 24} {data : BitVec 32}
    (hr : legalResponse (respond st aux data) = true) : (s.answer st aux data).Inv :=
  (h.withPorts none s.host s.draws).observe fun _ he => Observation.response.inj he ▸ hr

theorem State.Inv.answer_ok {s : State} (h : s.Inv) (aux : BitVec 24) (data : BitVec 32) : (s.answer .ok aux data).Inv :=
  h.answer (legalResponse_ok aux data)

theorem State.Inv.raise {s : State} (h : s.Inv) (st : Status) : (s.raise st).Inv := h.answer (legalResponse_raise st)

/-- Reset makes every architectural field good; the build and the record it leaves alone must be good before (R220). -/
theorem inv_resetBlock {s : State} (hb : s.build.Legal) (hr : ∀ r, .response r ∈ s.seen → legalResponse r = true) :
    s.resetBlock.Inv where
  legal := hb
  acc_width := Nat.two_pow_pos _
  rem_le := Nat.zero_le _
  acc_low := dvd_zero _
  val_width := Nat.two_pow_pos _
  cnt_width := Nat.two_pow_pos _
  in_wf := List.Pairwise.nil
  in_within := fun _ he => absurd he List.not_mem_nil
  out_wf := List.Pairwise.nil
  out_within := fun _ he => absurd he List.not_mem_nil
  started_of_finished := nofun
  responses := hr

/-- Settles O20: a machine fresh from reset is one that `rst` does not change. -/
theorem resetMeetsTheInvariant : Obligations.ResetMeetsTheInvariant := by
  unfold Obligations.ResetMeetsTheInvariant
  intro b hb
  exact inv_resetBlock (s := State.resetIn b) hb fun _ hr => absurd hr List.not_mem_nil

/-! ### Every step keeps the invariant -/

/-- A configuration write that leaves the flags alone keeps the invariant, refused or not. -/
theorem State.Inv.configWrite {s : State} (h : s.Inv) {o : Osc} (hst : o.started = s.osc.started)
    (hfin : o.finished = s.osc.finished) : (configWrite s o).Inv := by
  rcases configWrite_cases s o with ⟨_, hc⟩ | ⟨_, hc⟩
  · rw [hc]
    exact h.raise _
  · rw [hc]
    exact (h.withOsc (by rw [hst, hfin]; exact h.started_of_finished)).answer_ok _ _

/-- The sample loop changes the OSC registers and the OUT window alone. -/
theorem LoopFrame.eq_with {n k : Nat} {s t : State} (fr : LoopFrame n k s t) :
    t = { s with osc := t.osc, outWin := t.outWin } := by
  rw [← fr.build, ← fr.bx, ← fr.sr, ← fr.inWin, ← fr.cmdPort, ← fr.host, ← fr.seen, ← fr.draws]

theorem State.Inv.sampleLoop {n k : Nat} {s t : State} (h : s.Inv) (hd : k + n ≤ s.build.depth)
    (hl : sampleLoop n k s = .next t) (fr : LoopFrame n k s t) : t.Inv := by
  obtain ⟨hw, hi⟩ := sampleLoop_wf hl hd h.out_wf h.out_within
  have hosc : State.Inv { s with osc := t.osc } :=
    h.withOsc (by rw [fr.started, fr.finished]; exact h.started_of_finished)
  rw [fr.eq_with]
  exact hosc.withOutWin hw hi

theorem State.Inv.execOscProcess {ni no : BitVec 16} {eoi : Bool} {s t : State} (h : s.Inv)
    (ht : execOscProcess ni no eoi s = .next t) : t.Inv := by
  rcases execOscProcess_cases ni no eoi s with ⟨_, hs⟩ | ⟨hni, _, ⟨u, hl, fr, hs⟩ | ⟨_, _, _, _, hs⟩⟩
  · cases hs.symm.trans ht
    exact h.raise _
  · cases hs.symm.trans ht
    have hu : u.Inv := h.sampleLoop (by omega) hl fr
    exact (hu.withOsc fun _ => afterProcess_started u.osc ni no eoi).answer_ok _ _
  · cases hs.symm.trans ht

theorem State.Inv.exec {i : Instr} {s t : State} (h : s.Inv) (ht : exec i s = .next t) : t.Inv := by
  cases i with
  | bxLoad v =>
    cases ht
    exact (h.withBx (Bx.fits_load h.legal.w_le _)).answer_ok _ _
  | bxPull =>
    by_cases hr : s.bx.rem.toNat = 0
    · cases (execBxPull_exhausted hr).symm.trans ht
      exact h.answer_ok _ _
    · cases (execBxPull_emits hr).symm.trans ht
      exact (h.withBx (h.bx_fits.pull h.legal.w_le hr)).answer_ok _ _
  | srLoad v n =>
    cases ht
    exact (h.withSr ⟨toNat_lowBits_lt _ _ _, toNat_lowBits_lt _ _ _⟩).answer_ok _ _
  | srPull =>
    by_cases hc : s.sr.cnt.toNat = 0
    · cases (execSrPull_exhausted hc).symm.trans ht
      exact h.answer_ok _ _
    · cases (execSrPull_emits hc).symm.trans ht
      exact (h.withSr (h.sr_fits.pull hc)).answer_ok _ _
  | oscSetamp | oscSetoffi | oscSetoffq | oscSetcoeff | oscSetphase | oscSetfreq =>
    cases ht
    exact h.configWrite rfl rfl
  | oscProcess => exact h.execOscProcess ht
  | bxStat | srStat | oscRdamp | oscRdoffi | oscRdoffq | oscRdcoeff | oscRdphase | oscRdfreq | oscRdstat =>
    cases ht
    exact h.answer_ok _ _

theorem State.Inv.serve {s t : State} (h : s.Inv) (ht : serve s = .next t) : t.Inv := by
  rcases serve_cases s with ⟨_, hs⟩ | ⟨c, _, ⟨i, _, hs⟩ | ⟨_, hs⟩⟩
  · cases hs.symm.trans ht
    exact h
  · exact h.exec (hs ▸ ht)
  · cases hs.symm.trans ht
    exact h.raise _

theorem State.Inv.hostReadIn {s : State} (h : s.Inv) (a : Index) : (hostReadIn a s).Inv := by
  obtain ⟨v, d, hr⟩ := hostReadIn_cases a s
  rw [hr]
  exact (h.observe (o := .inEntry a v) nofun).withPorts _ _ _

theorem State.Inv.hostReadOut {s : State} (h : s.Inv) (a : Index) : (hostReadOut a s).Inv := by
  obtain ⟨v, d, hr⟩ := hostReadOut_cases a s
  rw [hr]
  exact (h.observe (o := .outEntry a v) nofun).withPorts _ _ _

theorem State.Inv.hostAct {op : HostOp} {s t : State} (h : s.Inv) (ht : hostAct op s = .next t) : t.Inv := by
  rcases hostAct_cases ht with
    ⟨_, rfl⟩ | ⟨_, ⟨a, v, _, ha, rfl⟩ | ⟨a, v, _, ha, rfl⟩ | ⟨a, _, _, rfl⟩ | ⟨a, _, _, rfl⟩ | ⟨c, _, rfl⟩⟩
  · exact inv_resetBlock h.legal h.responses
  · exact h.withInWin (write_wf _ v h.in_wf) (write_within v ha h.in_within)
  · exact h.withOutWin (write_wf _ v h.out_wf) (write_within v ha h.out_within)
  · exact h.hostReadIn a
  · exact h.hostReadOut a
  · exact h.withPorts _ _ _

/-- Settles O21: the block's turn keeps the invariant, and so does the host's. -/
theorem stepKeepsTheInvariant : Obligations.StepKeepsTheInvariant := by
  unfold Obligations.StepKeepsTheInvariant
  intro s t h ht
  rcases step_cases s with ⟨_, hs⟩ | ⟨op, rest, _, hs⟩
  · exact (h.withPorts s.cmdPort s.host.tail s.draws).serve (hs ▸ ht)
  · exact (h.withPorts s.cmdPort rest s.draws).hostAct (hs ▸ ht)

/-! ### What a step makes of the OSC registers -/

/-- From `o` to `o'` a configuration write was done: that needs OSC_STARTED = 0 and moves no flag (R145). -/
structure Osc.Configured (o o' : Osc) : Prop where
  construction : o.started = false
  started : o'.started = o.started
  finished : o'.finished = o.finished

/-- From `o` to `o'` an accepted `osc.process` ran: it keeps the configuration, sets OSC_STARTED and clears no flag (R160). -/
structure Osc.Processed (o o' : Osc) : Prop where
  amp : o'.amp = o.amp
  offi : o'.offi = o.offi
  offq : o'.offq = o.offq
  coeff : o'.coeff = o.coeff
  started : o'.started = true
  finished : o.finished = true → o'.finished = true

theorem configWrite_osc {s : State} {o : Osc} (hst : o.started = s.osc.started) (hfin : o.finished = s.osc.finished) :
    (configWrite s o).osc = s.osc ∨ Osc.Configured s.osc (configWrite s o).osc := by
  rcases configWrite_cases s o with ⟨_, hc⟩ | ⟨hcon, hc⟩
  · exact .inl (by rw [hc]; rfl)
  · exact .inr (by rw [hc]; exact ⟨hcon, hst, hfin⟩)

theorem LoopFrame.processed {n k : Nat} {s t : State} (fr : LoopFrame n k s t) (ni no : BitVec 16) (eoi : Bool) :
    Osc.Processed s.osc (t.osc.afterProcess ni no eoi) :=
  ⟨fr.amp, fr.offi, fr.offq, fr.coeff, afterProcess_started _ _ _ _,
    fun hfin => by rw [afterProcess_finished, fr.finished, hfin, Bool.true_or]⟩

/-- A command leaves the OSC registers alone, writes the configuration, or is an `osc.process` (R145, R160, R204). -/
theorem exec_osc_cases {i : Instr} {s t : State} (h : exec i s = .next t) :
    t.osc = s.osc ∨ Osc.Configured s.osc t.osc ∨ (∃ ni no eoi, i = .oscProcess ni no eoi) ∧ Osc.Processed s.osc t.osc := by
  cases i with
  | bxLoad | bxPull | bxStat | srLoad | srPull | srStat =>
    obtain ⟨hosc, _⟩ := unitsShareNothing.1 _ s t .osc h nofun
    exact .inl hosc.symm
  | oscSetamp | oscSetoffi | oscSetoffq | oscSetcoeff | oscSetphase | oscSetfreq =>
    cases h
    exact Or.imp_right .inl (configWrite_osc rfl rfl)
  | oscRdamp | oscRdoffi | oscRdoffq | oscRdcoeff | oscRdphase | oscRdfreq | oscRdstat =>
    cases h
    exact .inl rfl
  | oscProcess ni no eoi =>
    rcases execOscProcess_cases ni no eoi s with ⟨_, hs⟩ | ⟨_, _, ⟨u, _, fr, hs⟩ | ⟨_, _, _, _, hs⟩⟩
    · cases hs.symm.trans h
      exact .inl rfl
    · cases hs.symm.trans h
      exact .inr (.inr ⟨⟨ni, no, eoi, rfl⟩, fr.processed ni no eoi⟩)
    · cases hs.symm.trans h

theorem hostAct_osc {op : HostOp} {s t : State} (hop : op ≠ .rst) (h : hostAct op s = .next t) : t.osc = s.osc := by
  rcases hostAct_cases h with
    ⟨hrst, _⟩ | ⟨_, ⟨a, v, _, _, rfl⟩ | ⟨a, v, _, _, rfl⟩ | ⟨a, _, _, rfl⟩ | ⟨a, _, _, rfl⟩ | ⟨c, _, rfl⟩⟩
  · exact absurd hrst hop
  · rfl
  · rfl
  · obtain ⟨v, d, hr⟩ := hostReadIn_cases a s
    rw [hr]
  · obtain ⟨v, d, hr⟩ := hostReadOut_cases a s
    rw [hr]
  · rfl

/-- In the next step the block runs an `osc.process`. -/
def ProcessNext (s : State) : Prop :=
  HostWaits s ∧ ∃ c ni no eoi, s.cmdPort = some c ∧ decode s.build c = some (.oscProcess ni no eoi)

/-- A step that is not `rst` leaves the OSC registers alone, writes the configuration, or runs an `osc.process`. -/
theorem step_osc_cases {s t : State} (hr : NotResetNext s) (h : step s = .next t) :
    t.osc = s.osc ∨ Osc.Configured s.osc t.osc ∨ ProcessNext s ∧ Osc.Processed s.osc t.osc := by
  rcases step_cases s with ⟨hw, hs⟩ | ⟨op, rest, hact, hs⟩
  · have hserve : serve { s with host := s.host.tail } = .next t := hs ▸ h
    rcases serve_cases { s with host := s.host.tail } with ⟨_, he⟩ | ⟨c, hc, ⟨i, hd, he⟩ | ⟨_, he⟩⟩
    · cases he.symm.trans hserve
      exact .inl rfl
    · rcases exec_osc_cases (he.symm.trans hserve) with hosc | hosc | ⟨⟨ni, no, eoi, rfl⟩, hosc⟩
      · exact .inl hosc
      · exact .inr (.inl hosc)
      · exact .inr (.inr ⟨⟨hw, c, ni, no, eoi, hc, hd⟩, hosc⟩)
    · cases he.symm.trans hserve
      exact .inl rfl
  · have hop : op ≠ .rst := by
      rintro rfl
      exact hr (by rw [hact]; rfl)
    exact .inl (hostAct_osc (s := { s with host := rest }) hop (hs ▸ h))

/-- Settles O23: of the three things a step can make of the OSC registers, only an `osc.process` moves a flag, and upward. -/
theorem onlyResetClearsTheFlags : Obligations.OnlyResetClearsTheFlags := by
  unfold Obligations.OnlyResetClearsTheFlags
  intro s t h hr
  rcases step_osc_cases hr h with hosc | hcfg | ⟨hnext, hproc⟩
  · simp [hosc]
  · simp [hcfg.started, hcfg.finished]
  · exact ⟨fun _ => hproc.started, hproc.finished, fun _ => hnext⟩

/-- Settles O24: with OSC_STARTED = 1 no configuration write is done, and an `osc.process` keeps the configuration. -/
theorem startedConfigurationIsFrozen : Obligations.StartedConfigurationIsFrozen := by
  unfold Obligations.StartedConfigurationIsFrozen
  intro s t hst hr h
  rcases step_osc_cases hr h with hosc | hcfg | ⟨_, hproc⟩
  · simp [hosc]
  · simp [hcfg.construction] at hst
  · exact ⟨hproc.amp, hproc.offi, hproc.offq, hproc.coeff⟩

/-! ### The frequency an `osc.process` finds -/

/-- `s` with OSC_FREQ replaced. -/
def State.withFreq (s : State) (f : Freq) : State := { s with osc := { s.osc with freq := f } }

/-- A turn of the loop replaces OSC_FREQ before it steps the phase (R160 steps 4 and 5), so it never reads it. -/
theorem sampleStep_withFreq (k : Nat) (s : State) (f : Freq) : sampleStep k (s.withFreq f) = sampleStep k s := rfl

theorem sampleLoop_withFreq {n : Nat} (hn : 0 < n) (k : Nat) (s : State) (f : Freq) :
    sampleLoop n k (s.withFreq f) = sampleLoop n k s := by
  cases n with
  | zero => exact absurd hn (lt_irrefl 0)
  | succ n => rw [sampleLoop, sampleLoop, sampleStep_withFreq]

theorem execOscProcess_withFreq {ni no : BitVec 16} {eoi : Bool} {s : State} (f : Freq) (hni : ni.toNat ≤ s.build.depth)
    (hno : no.toNat ≤ s.build.depth) (hn : 0 < min ni.toNat no.toNat) :
    execOscProcess ni no eoi (s.withFreq f) = execOscProcess ni no eoi s := by
  have hd : ¬(s.build.depth < ni.toNat ∨ s.build.depth < no.toNat) := not_or.2 ⟨hni.not_gt, hno.not_gt⟩
  rw [execOscProcess, execOscProcess, sampleLoop_withFreq hn, if_neg hd]
  exact if_neg hd

/-- An accepted `osc.process` that processes no sample only ends (R160). -/
theorem execOscProcess_noSample {ni no : BitVec 16} {eoi : Bool} {s : State} (hni : ni.toNat ≤ s.build.depth)
    (hno : no.toNat ≤ s.build.depth) (hn : min ni.toNat no.toNat = 0) :
    execOscProcess ni no eoi s = .next (finishProcess ni no eoi s) := by
  rw [execOscProcess, if_neg (not_or.2 ⟨hni.not_gt, hno.not_gt⟩), hn, sampleLoop]

theorem execOscProcess_windowRange {ni no : BitVec 16} {eoi : Bool} {s : State}
    (hd : s.build.depth < ni.toNat ∨ s.build.depth < no.toNat) :
    execOscProcess ni no eoi s = .next (s.raise .windowRange) := if_pos hd

/-- Settles O51: with a sample to process the command is the same on both states; with none, it hands OSC_FREQ through. -/
theorem earlierFrequencyNeverStepsThePhase : Obligations.EarlierFrequencyNeverStepsThePhase := by
  unfold Obligations.EarlierFrequencyNeverStepsThePhase
  intro s f ni no eoi
  rcases execOscProcess_cases ni no eoi s with ⟨hd, hs⟩ | ⟨hni, hno, hrun⟩
  · exact .inl ⟨_, _, hs, execOscProcess_windowRange (s := s.withFreq f) hd, rfl, fun _ _ _ => by omega⟩
  · rcases Nat.eq_zero_or_pos (min ni.toNat no.toNat) with hn | hn
    · exact .inl ⟨_, _, execOscProcess_noSample hni hno hn, execOscProcess_noSample (s := s.withFreq f) hni hno hn, rfl,
        fun _ _ hpos => absurd hn hpos.ne'⟩
    · have hsame : execOscProcess ni no eoi (s.withFreq f) = execOscProcess ni no eoi s := execOscProcess_withFreq f hni hno hn
      rcases hrun with ⟨u, _, _, hs⟩ | ⟨k, _, _, _, hs⟩
      · exact .inl ⟨_, _, hs, hsame.trans hs, rfl, fun _ _ _ => rfl⟩
      · exact .inr ⟨k, hs, hsame.trans hs⟩

end Sys2Proof.Machine

/-! # The windows and the host

PROOFS of the family 20_memory.md: the byte view loses nothing, what `osc.process` leaves alone and where it stops, what each of the
host's moves does and when it has none, and who writes the windows. -/

namespace Sys2Proof.Machine

/-! ### The byte view -/

/-- The `k` bytes of a number, lowest first, are its remainder modulo `2^(8k)`. -/
theorem ofByteView_bytes (k x : Nat) :
    ofByteView ((List.range k).map fun i => BitVec.ofNat 8 (x / 2 ^ (8 * i))) = x % 2 ^ (8 * k) := by
  induction k generalizing x with
  | zero => simp [ofByteView, Nat.mod_one]
  | succ k ih =>
    have hpow : ∀ i, 2 ^ (8 * (i + 1)) = 256 * 2 ^ (8 * i) := fun i => by rw [Nat.mul_succ, pow_add]; omega
    have hrest : ∀ i, x / 2 ^ (8 * (i + 1)) = x / 256 / 2 ^ (8 * i) := fun i => by
      rw [hpow, Nat.div_div_eq_div_mul]
    simp only [List.range_succ_eq_map, List.map_cons, List.map_map, Function.comp_def, Nat.succ_eq_add_one, ofByteView, hrest, ih]
    rw [hpow, Nat.mod_mul]
    simp

theorem byteView_eq_bytes (k : Nat) (v : BitVec (8 * k)) :
    byteView k v = (List.range k).map fun i => BitVec.ofNat 8 (v.toNat / 2 ^ (8 * i)) := by
  simp only [byteView, BitVec.extractLsb', Nat.shiftRight_eq_div_pow]

/-- Settles O7: the byte view lists the bytes of the pattern's number, which is below `2^(8k)`. -/
theorem byteViewIsLittleEndian : Obligations.ByteViewIsLittleEndian := by
  unfold Obligations.ByteViewIsLittleEndian
  intro k v
  refine ⟨by simp [byteView], fun i h => by simp [byteView], ?_⟩
  rw [byteView_eq_bytes, ofByteView_bytes, Nat.mod_eq_of_lt v.isLt]

/-! ### `osc.process` and the windows -/

/-- Settles O43: WINDOW_RANGE changes nothing, and the sample loop has its frame. -/
theorem processFrame : Obligations.ProcessFrame := by
  unfold Obligations.ProcessFrame
  intro s t ni no eoi h
  rcases execOscProcess_cases ni no eoi s with ⟨_, hs⟩ | ⟨_, _, ⟨u, _, fr, hs⟩ | ⟨_, _, _, _, hs⟩⟩
  · cases hs.symm.trans h
    exact ⟨rfl, rfl, rfl, rfl, rfl, rfl, rfl, fun _ _ => rfl⟩
  · cases hs.symm.trans h
    exact ⟨fr.bx, fr.sr, fr.inWin, fr.amp, fr.offi, fr.offq, fr.coeff, fun k hk => fr.outRead k (.inr (by omega))⟩
  · cases hs.symm.trans h

/-- The sample loop stops at the first unwritten entry in its range (R57). -/
theorem sampleLoop_unwritten {n k j : Nat} {s : State} (hkj : k ≤ j) (hjn : j < k + n) (hj : s.inWin.read j = none)
    (hlt : ∀ i, k ≤ i → i < j → s.inWin.read i ≠ none) : sampleLoop n k s = .fault (.uninitIn j) := by
  rcases sampleLoop_cases n k s with ⟨_, _, _, hw⟩ | ⟨j', hkj', _, hj', hlt', hf⟩
  · exact absurd hj (hw j hkj hjn)
  · have hjj' : j' = j := by
      rcases lt_trichotomy j' j with h | h | h
      · exact absurd hj' (hlt j' hkj' h)
      · exact h
      · exact absurd hj (hlt' j hkj h)
    rw [hf, hjj']

theorem execOscProcess_unwritten {ni no : BitVec 16} {eoi : Bool} {s : State} {k : Nat} (hni : ni.toNat ≤ s.build.depth)
    (hno : no.toNat ≤ s.build.depth) (hk : k < min ni.toNat no.toNat) (hr : s.inWin.read k = none)
    (hlt : ∀ j < k, s.inWin.read j ≠ none) : execOscProcess ni no eoi s = .fault (.uninitIn k) := by
  rw [execOscProcess, if_neg (not_or.2 ⟨hni.not_gt, hno.not_gt⟩),
    sampleLoop_unwritten (Nat.zero_le k) (by omega) hr fun j _ => hlt j]

/-! ### The host's moves -/

theorem step_of_hostActs {s : State} {op : HostOp} {rest : List HostTurn} (h : s.host = .act op :: rest) :
    step s = hostAct op { s with host := rest } := by
  simp only [step, h]

theorem hostAct_of_free {s : State} (h : s.cmdPort = none) (op : HostOp) : hostAct op s = hostOpFree op s :=
  if_neg (by simp [h])

theorem hostAct_of_outstanding {s : State} {c : Word} (h : s.cmdPort = some c) {op : HostOp} (hop : op ≠ .rst) :
    hostAct op s = .refused .hostOverlap :=
  if_pos ⟨by simp [h], hop⟩

/-- With no command outstanding, the host's move is not held up. -/
theorem step_of_hostActs_free {s : State} {op : HostOp} {rest : List HostTurn} (hc : s.cmdPort = none)
    (h : s.host = .act op :: rest) : step s = hostOpFree op { s with host := rest } :=
  (step_of_hostActs h).trans (hostAct_of_free (s := { s with host := rest }) hc op)

theorem atIndex_of_lt {a : Index} {s : State} (h : a.toNat < s.build.depth) (t : State) : atIndex a s t = .next t := if_pos h

theorem atIndex_of_le {a : Index} {s : State} (h : s.build.depth ≤ a.toNat) (t : State) :
    atIndex a s t = .refused (.hostIndex a.toNat) := if_neg h.not_gt

theorem step_readIn {s : State} {a : Index} {rest : List HostTurn} (hc : s.cmdPort = none) (ha : a.toNat < s.build.depth)
    (h : s.host = .act (.readIn a) :: rest) : step s = .next (hostReadIn a { s with host := rest }) :=
  (step_of_hostActs_free hc h).trans (atIndex_of_lt ha _)

theorem step_readOut {s : State} {a : Index} {rest : List HostTurn} (hc : s.cmdPort = none) (ha : a.toNat < s.build.depth)
    (h : s.host = .act (.readOut a) :: rest) : step s = .next (hostReadOut a { s with host := rest }) :=
  (step_of_hostActs_free hc h).trans (atIndex_of_lt ha _)

theorem hostReadIn_written {a : Index} {s : State} {v : Q214} (h : s.inWin.read a.toNat = some v) :
    hostReadIn a s = { s with seen := s.seen ++ [.inEntry a v] } := by
  simp only [hostReadIn, h]

theorem hostReadIn_unwritten {a : Index} {s : State} (h : s.inWin.read a.toNat = none) :
    hostReadIn a s = { s with seen := s.seen ++ [.inEntry a (Config.unwrittenIn s.draws)], draws := s.draws + 1 } := by
  simp only [hostReadIn, h]

theorem hostReadOut_written {a : Index} {s : State} {v : Quad} (h : s.outWin.read a.toNat = some v) :
    hostReadOut a s = { s with seen := s.seen ++ [.outEntry a v] } := by
  simp only [hostReadOut, h]

theorem hostReadOut_unwritten {a : Index} {s : State} (h : s.outWin.read a.toNat = none) :
    hostReadOut a s = { s with seen := s.seen ++ [.outEntry a (Config.unwrittenOut s.draws)], draws := s.draws + 1 } := by
  simp only [hostReadOut, h]

/-- Settles O44: the sample loop stops at the first unwritten entry, and a host read of one draws a free value. -/
theorem unwrittenEntries : Obligations.UnwrittenEntries := by
  unfold Obligations.UnwrittenEntries
  refine ⟨fun s ni no eoi k hni hno hk hr hlt => execOscProcess_unwritten hni hno hk hr hlt, fun s a rest hc ha => ⟨?_, ?_⟩⟩
  · intro hh hr
    rw [step_readIn hc ha hh, hostReadIn_unwritten (s := { s with host := rest }) hr]
  · intro hh hr
    rw [step_readOut hc ha hh, hostReadOut_unwritten (s := { s with host := rest }) hr]

/-- Settles O52: the index exists and no command is outstanding, so each operation is done. -/
theorem hostWindowOperations : Obligations.HostWindowOperations := by
  unfold Obligations.HostWindowOperations
  intro s a rest hc ha
  refine ⟨fun v hh => ?_, fun v hh => ?_, fun v hh hr => ?_, fun v hh hr => ?_⟩
  · exact ⟨_, (step_of_hostActs_free hc hh).trans (atIndex_of_lt ha _), rfl, fun k => read_write _ _ _ _⟩
  · exact ⟨_, (step_of_hostActs_free hc hh).trans (atIndex_of_lt ha _), rfl, fun k => read_write _ _ _ _⟩
  · rw [step_readIn hc ha hh, hostReadIn_written (s := { s with host := rest }) hr]
  · rw [step_readOut hc ha hh, hostReadOut_written (s := { s with host := rest }) hr]

/-- Settles O53: the index is checked in every window operation, the overlap before any operation but `rst`. -/
theorem hostMovesOutsideItsDuties : Obligations.HostMovesOutsideItsDuties := by
  unfold Obligations.HostMovesOutsideItsDuties
  intro s rest
  refine ⟨fun a op hc ha hh hop => ?_, fun a hd => ?_, fun op c hc hh hop => ?_, fun c hc hh => ?_⟩
  · rw [step_of_hostActs_free hc hh]
    rcases hop with rfl | rfl | ⟨v, rfl⟩ | ⟨v, rfl⟩ <;> exact atIndex_of_le ha _
  · rw [hd]
    exact a.isLt.not_ge
  · exact (step_of_hostActs hh).trans (hostAct_of_outstanding (s := { s with host := rest }) hc hop)
  · exact step_of_hostActs_free hc hh

/-! ### Who writes the windows -/

@[simp] theorem hostReadIn_inWin (a : Index) (s : State) : (hostReadIn a s).inWin = s.inWin := by
  obtain ⟨v, d, hr⟩ := hostReadIn_cases a s
  rw [hr]

@[simp] theorem hostReadIn_outWin (a : Index) (s : State) : (hostReadIn a s).outWin = s.outWin := by
  obtain ⟨v, d, hr⟩ := hostReadIn_cases a s
  rw [hr]

@[simp] theorem hostReadOut_inWin (a : Index) (s : State) : (hostReadOut a s).inWin = s.inWin := by
  obtain ⟨v, d, hr⟩ := hostReadOut_cases a s
  rw [hr]

@[simp] theorem hostReadOut_outWin (a : Index) (s : State) : (hostReadOut a s).outWin = s.outWin := by
  obtain ⟨v, d, hr⟩ := hostReadOut_cases a s
  rw [hr]

theorem configWrite_windows (s : State) (o : Osc) :
    (configWrite s o).inWin = s.inWin ∧ (configWrite s o).outWin = s.outWin := by
  rcases configWrite_cases s o with ⟨_, hc⟩ | ⟨_, hc⟩ <;> rw [hc] <;> exact ⟨rfl, rfl⟩

/-- A command leaves both windows alone, or is an `osc.process` (R54). -/
theorem exec_window_cases {i : Instr} {s t : State} (h : exec i s = .next t) :
    (t.inWin = s.inWin ∧ t.outWin = s.outWin) ∨ ∃ ni no eoi, i = .oscProcess ni no eoi := by
  cases i with
  | bxLoad | bxPull | bxStat | srLoad | srPull | srStat =>
    obtain ⟨_, hin, hout⟩ := unitsShareNothing.1 _ s t .osc h nofun
    exact .inl ⟨hin.symm, hout.symm⟩
  | oscSetamp | oscSetoffi | oscSetoffq | oscSetcoeff | oscSetphase | oscSetfreq =>
    cases h
    exact .inl (configWrite_windows _ _)
  | oscRdamp | oscRdoffi | oscRdoffq | oscRdcoeff | oscRdphase | oscRdfreq | oscRdstat =>
    cases h
    exact .inl ⟨rfl, rfl⟩
  | oscProcess ni no eoi => exact .inr ⟨ni, no, eoi, rfl⟩

/-- The block never writes IN; it writes an OUT entry only in an `osc.process` whose range holds the entry (R54, R56). -/
theorem serve_windows {s t : State} (h : serve s = .next t) :
    t.inWin = s.inWin ∧ ∀ k, t.outWin.read k ≠ s.outWin.read k →
      ∃ c ni no eoi, s.cmdPort = some c ∧ decode s.build c = some (.oscProcess ni no eoi) ∧ k < min ni.toNat no.toNat := by
  rcases serve_cases s with ⟨_, hs⟩ | ⟨c, hc, ⟨i, hd, hs⟩ | ⟨_, hs⟩⟩
  · cases hs.symm.trans h
    exact ⟨rfl, fun k hk => absurd rfl hk⟩
  · have hexec : exec i s = .next t := hs.symm.trans h
    rcases exec_window_cases hexec with ⟨hin, hout⟩ | ⟨ni, no, eoi, rfl⟩
    · exact ⟨hin, fun k hk => absurd (by rw [hout]) hk⟩
    · obtain ⟨_, _, hin, _, _, _, _, hout⟩ := processFrame s t ni no eoi hexec
      exact ⟨hin, fun k hk => ⟨c, ni, no, eoi, hc, hd, not_le.1 fun hle => hk (hout k hle)⟩⟩
  · cases hs.symm.trans h
    exact ⟨rfl, fun k hk => absurd rfl hk⟩

/-- A write changes no entry but the one it names. -/
theorem eq_of_read_write_ne {α : Type} {m : Memory α} {k j : Nat} {v : α} (h : (m.write k v).read j ≠ m.read j) : k = j :=
  not_ne_iff.1 fun hne => h (read_write_other m v hne.symm)

/-- Of the host's moves but `rst`, `HostWriteIn` alone changes IN, and `HostWriteOut` alone OUT (R56). -/
theorem hostAct_windows {op : HostOp} {s t : State} (hop : op ≠ .rst) (h : hostAct op s = .next t) :
    (∀ k, t.inWin.read k ≠ s.inWin.read k → ∃ a v, op = .writeIn a v ∧ a.toNat = k) ∧
    (∀ k, t.outWin.read k ≠ s.outWin.read k → ∃ a v, op = .writeOut a v ∧ a.toNat = k) := by
  rcases hostAct_cases h with
    ⟨hrst, _⟩ | ⟨_, ⟨a, v, rfl, _, rfl⟩ | ⟨a, v, rfl, _, rfl⟩ | ⟨a, _, _, rfl⟩ | ⟨a, _, _, rfl⟩ | ⟨c, _, rfl⟩⟩
  · exact absurd hrst hop
  · exact ⟨fun k hk => ⟨a, v, rfl, eq_of_read_write_ne hk⟩, fun k hk => absurd rfl hk⟩
  · exact ⟨fun k hk => absurd rfl hk, fun k hk => ⟨a, v, rfl, eq_of_read_write_ne hk⟩⟩
  · simp
  · simp
  · simp

/-- Settles O54: the block's turn writes OUT alone and only in an `osc.process`, the host's turn only the entry it names. -/
theorem whoWritesTheWindows : Obligations.WhoWritesTheWindows := by
  unfold Obligations.WhoWritesTheWindows
  intro s t h hr
  rcases step_cases s with ⟨hw, hs⟩ | ⟨op, rest, hact, hs⟩
  · obtain ⟨hin, hout⟩ := serve_windows (s := { s with host := s.host.tail }) (hs ▸ h)
    exact ⟨fun k hk => absurd (by rw [hin]) hk, fun k hk => .inr ⟨hw, hout k hk⟩⟩
  · have hop : op ≠ .rst := by
      rintro rfl
      exact hr (by rw [hact]; rfl)
    obtain ⟨hin, hout⟩ := hostAct_windows (s := { s with host := rest }) hop (hs ▸ h)
    refine ⟨fun k hk => ?_, fun k hk => .inl ?_⟩
    · obtain ⟨a, v, rfl, ha⟩ := hin k hk
      exact ⟨a, v, rest, hact, ha⟩
    · obtain ⟨a, v, rfl, ha⟩ := hout k hk
      exact ⟨a, v, rest, hact, ha⟩

end Sys2Proof.Machine

/-! # The encoding

PROOFS of the family 30_encoding.md: the decoder and the encoder are each other's inverse, the opcode map says what decodes, reserved
bits and unassigned words decode to nothing, what the assembler makes is a command of the build, and each word is answered once. -/

namespace Sys2Proof

/-- The opcodes R79 assigns. -/
def assignedOpcodes : List (BitVec 8) := [0x10#8, 0x11#8, 0x12#8, 0x20#8, 0x21#8, 0x22#8, 0x30#8, 0x31#8, 0x40#8]

/-! ### The decoder, one equation an opcode (R77, R79) -/

section
variable (b : Build) (a : BitVec 24) (d : BitVec 32)

@[simp] theorem decodeFields_bxLoad :
    decodeFields b 0x10#8 a d = if a = 0 ∧ clearAbove b.w d then some (.bxLoad d) else none := rfl

@[simp] theorem decodeFields_bxPull : decodeFields b 0x11#8 a d = if a = 0 ∧ d = 0 then some .bxPull else none := rfl

@[simp] theorem decodeFields_bxStat : decodeFields b 0x12#8 a d = if a = 0 ∧ d = 0 then some .bxStat else none := rfl

@[simp] theorem decodeFields_srLoad :
    decodeFields b 0x20#8 a d = if clearAbove b.nw a ∧ clearAbove b.tw d then some (.srLoad d a) else none := rfl

@[simp] theorem decodeFields_srPull : decodeFields b 0x21#8 a d = if a = 0 ∧ d = 0 then some .srPull else none := rfl

@[simp] theorem decodeFields_srStat : decodeFields b 0x22#8 a d = if a = 0 ∧ d = 0 then some .srStat else none := rfl

@[simp] theorem decodeFields_oscSet :
    decodeFields b 0x30#8 a d = if clearAbove 3 a then decodeOscSet (a.extractLsb' 0 3) d else none := rfl

@[simp] theorem decodeFields_oscRd :
    decodeFields b 0x31#8 a d = if clearAbove 3 a ∧ d = 0 then decodeOscRd (a.extractLsb' 0 3) else none := rfl

@[simp] theorem decodeFields_oscProcess :
    decodeFields b 0x40#8 a d =
      if clearAbove 1 a then some (.oscProcess (d.extractLsb' 0 16) (d.extractLsb' 16 16) (a.getLsbD 0)) else none := rfl

theorem decodeFields_unassigned {o : BitVec 8} (h : o ∉ assignedOpcodes) : decodeFields b o a d = none := by
  simp only [assignedOpcodes, List.mem_cons, List.not_mem_nil, or_false, not_or] at h
  simp [decodeFields, h]

end

/-- The equation of a word's opcode applies to the word. -/
theorem decode_of_opcField {c : Word} {o : BitVec 8} (b : Build) (h : opcField c = o) :
    decode b c = decodeFields b o (aField c) (dField c) := by
  rw [decode, h]

/-! ### Operands in the low end of a field -/

/-- A field that fits `k` bits is its `k` low bits, zero-extended. -/
theorem setWidth_extractLsb'_low {n k : Nat} {v : BitVec n} (hv : v.toNat < 2 ^ k) :
    (v.extractLsb' 0 k).setWidth n = v := by
  apply BitVec.eq_of_toNat_eq
  simp only [BitVec.toNat_setWidth, BitVec.extractLsb'_toNat, Nat.shiftRight_zero, Nat.mod_eq_of_lt hv, Nat.mod_eq_of_lt v.isLt]

/-- The operand of a narrow configuration write comes out of field D again. -/
theorem extractLsb'_setWidth_low (v : Q214) : (v.setWidth 32).extractLsb' 0 16 = v := by
  rw [BitVec.extractLsb'_setWidth_of_le (by decide), BitVec.extractLsb'_eq_self]

theorem toNat_setWidth_lt (v : Q214) : (v.setWidth 32).toNat < 2 ^ 16 := by
  rw [BitVec.toNat_setWidth_of_le (by decide)]
  exact v.isLt

/-! ### Decoding what was encoded -/

theorem decode_encode {b : Build} {i : Instr} (h : i.wellFormed b = true) : decode b (encode i) = some i := by
  rw [encode, decode_fields]
  cases i with
  | bxLoad v => simpa [Instr.opc, Instr.fieldA, Instr.fieldD, Instr.wellFormed] using h
  | srLoad v n => simpa [Instr.opc, Instr.fieldA, Instr.fieldD, Instr.wellFormed, and_comm] using h
  | oscSetamp v | oscSetoffi v | oscSetoffq v =>
    have hv := (clearAbove_iff 16 _).2 (toNat_setWidth_lt v)
    simp [Instr.opc, Instr.fieldA, Instr.fieldD, decodeOscSet, hv, extractLsb'_setWidth_low]
  | oscSetcoeff | oscSetphase | oscSetfreq => simp [Instr.opc, Instr.fieldA, Instr.fieldD, decodeOscSet]
  | oscProcess ni no eoi =>
    have hni : (no ++ ni).extractLsb' 0 16 = ni := BitVec.extractLsb'_append_eq_right
    have hno : (no ++ ni).extractLsb' 16 16 = no := BitVec.extractLsb'_append_eq_left
    cases eoi <;> simp [Instr.opc, Instr.fieldA, Instr.fieldD, hni, hno]
  | bxPull | bxStat | srPull | srStat => rfl
  | oscRdamp | oscRdoffi | oscRdoffq | oscRdcoeff | oscRdphase | oscRdfreq | oscRdstat => rfl

/-- Settles O1: each command's word carries its operands in the fields the decoder takes them from. -/
theorem encodedCommandDecodesToItself : Obligations.EncodedCommandDecodesToItself := by
  unfold Obligations.EncodedCommandDecodesToItself
  exact fun b i h => decode_encode h

/-! ### Encoding what was decoded -/

/-- The fields of a word are those of the command `i` (R83), and `i` is a command of the build. -/
structure FieldsOf (b : Build) (o : BitVec 8) (a : BitVec 24) (d : BitVec 32) (i : Instr) : Prop where
  opc : i.opc = o
  fieldA : i.fieldA = a
  fieldD : i.fieldD = d
  wellFormed : i.wellFormed b = true

theorem decodeOscSet_inv {b : Build} {r : BitVec 3} {d : BitVec 32} {i : Instr} (h : decodeOscSet r d = some i) :
    FieldsOf b 0x30 (r.setWidth 24) d i := by
  unfold decodeOscSet at h
  split_ifs at h with h₀ hd h₁ hd h₂ hd h₃ h₄ h₅
  all_goals subst r; cases h
  · exact ⟨rfl, rfl, setWidth_extractLsb'_low ((clearAbove_iff _ _).1 hd), rfl⟩
  · exact ⟨rfl, rfl, setWidth_extractLsb'_low ((clearAbove_iff _ _).1 hd), rfl⟩
  · exact ⟨rfl, rfl, setWidth_extractLsb'_low ((clearAbove_iff _ _).1 hd), rfl⟩
  · exact ⟨rfl, rfl, rfl, rfl⟩
  · exact ⟨rfl, rfl, rfl, rfl⟩
  · exact ⟨rfl, rfl, rfl, rfl⟩

theorem decodeOscRd_inv {b : Build} {r : BitVec 3} {i : Instr} (h : decodeOscRd r = some i) :
    FieldsOf b 0x31 (r.setWidth 24) 0 i := by
  unfold decodeOscRd at h
  split_ifs at h
  all_goals subst r; cases h; exact ⟨rfl, rfl, rfl, rfl⟩

/-- `osc.process`'s flag is all of its field A. -/
theorem flag_eq_fieldA {a : BitVec 24} (ha : a.toNat < 2 ^ 1) : (if a.getLsbD 0 then 1 else 0) = a := by
  obtain h | h : a.toNat = 0 ∨ a.toNat = 1 := by omega
  · rw [BitVec.eq_of_toNat_eq (y := 0) h]; rfl
  · rw [BitVec.eq_of_toNat_eq (y := 1) h]; rfl

/-- The two counts of `osc.process` are all of its field D. -/
theorem append_extractLsb'_halves (d : BitVec 32) : d.extractLsb' 16 16 ++ d.extractLsb' 0 16 = d := by
  apply BitVec.eq_of_getLsbD_eq
  intro i hi
  simp only [BitVec.getLsbD_append, BitVec.getLsbD_extractLsb']
  split_ifs with h
  · simp [h]
  · simp only [show i - 16 < 16 by omega, decide_true, Bool.true_and, show 16 + (i - 16) = i by omega]

/-- The inversion of the four opcodes whose fields A and D are all reserved. -/
theorem fieldsOf_noOperand {b : Build} {o : BitVec 8} {a : BitVec 24} {d : BitVec 32} {i j : Instr}
    (h : (if a = 0 ∧ d = 0 then some j else none) = some i) (hj : FieldsOf b o 0 0 j) : FieldsOf b o a d i := by
  obtain ⟨⟨rfl, rfl⟩, h⟩ := Option.ite_none_right_eq_some.1 h
  cases h
  exact hj

theorem decodeFields_inv {b : Build} {o : BitVec 8} {a : BitVec 24} {d : BitVec 32} {i : Instr}
    (h : decodeFields b o a d = some i) : FieldsOf b o a d i := by
  have ho : o ∈ assignedOpcodes := Decidable.not_not.1 fun hn => by simp [decodeFields_unassigned b a d hn] at h
  simp only [assignedOpcodes, List.mem_cons, List.not_mem_nil, or_false] at ho
  rcases ho with rfl | rfl | rfl | rfl | rfl | rfl | rfl | rfl | rfl
  · rw [decodeFields_bxLoad, Option.ite_none_right_eq_some] at h
    obtain ⟨⟨rfl, hd⟩, h⟩ := h
    cases h
    exact ⟨rfl, rfl, rfl, decide_eq_true ((clearAbove_iff _ _).1 hd)⟩
  · exact fieldsOf_noOperand h ⟨rfl, rfl, rfl, rfl⟩
  · exact fieldsOf_noOperand h ⟨rfl, rfl, rfl, rfl⟩
  · rw [decodeFields_srLoad, Option.ite_none_right_eq_some] at h
    obtain ⟨⟨ha, hd⟩, h⟩ := h
    cases h
    exact ⟨rfl, rfl, rfl, by simpa [Instr.wellFormed] using And.intro ((clearAbove_iff _ _).1 hd) ((clearAbove_iff _ _).1 ha)⟩
  · exact fieldsOf_noOperand h ⟨rfl, rfl, rfl, rfl⟩
  · exact fieldsOf_noOperand h ⟨rfl, rfl, rfl, rfl⟩
  · rw [decodeFields_oscSet, Option.ite_none_right_eq_some] at h
    obtain ⟨ha, h⟩ := h
    have hset := decodeOscSet_inv (b := b) h
    rwa [setWidth_extractLsb'_low ((clearAbove_iff _ _).1 ha)] at hset
  · rw [decodeFields_oscRd, Option.ite_none_right_eq_some] at h
    obtain ⟨⟨ha, rfl⟩, h⟩ := h
    have hrd := decodeOscRd_inv (b := b) h
    rwa [setWidth_extractLsb'_low ((clearAbove_iff _ _).1 ha)] at hrd
  · rw [decodeFields_oscProcess, Option.ite_none_right_eq_some] at h
    obtain ⟨ha, h⟩ := h
    cases h
    exact ⟨rfl, flag_eq_fieldA ((clearAbove_iff _ _).1 ha), append_extractLsb'_halves d, rfl⟩

theorem encode_of_decode {b : Build} {c : Word} {i : Instr} (h : decode b c = some i) :
    encode i = c ∧ i.wellFormed b = true := by
  have hf := decodeFields_inv h
  exact ⟨by rw [encode, hf.opc, hf.fieldA, hf.fieldD, fields_cover], hf.wellFormed⟩

/-- Settles O2: inverting the decoder gives the three fields, and these are the whole word. -/
theorem decodedWordIsTheEncoding : Obligations.DecodedWordIsTheEncoding := by
  unfold Obligations.DecodedWordIsTheEncoding
  exact fun b c i h => encode_of_decode h

/-! ### What decodes to nothing -/

/-- A one at or above bit `k` does not fit `k` bits. -/
theorem not_clearAbove {n k j : Nat} {v : BitVec n} (hj : k ≤ j) (hv : v.getLsbD j = true) : ¬clearAbove k v = true := by
  intro h
  have hlt : v.toNat < 2 ^ j := ((clearAbove_iff k v).1 h).trans_le (Nat.pow_le_pow_right (by decide) hj)
  rw [BitVec.getLsbD, Nat.testBit_lt_two_pow hlt] at hv
  cases hv

theorem ne_zero_of_getLsbD {n j : Nat} {v : BitVec n} (hv : v.getLsbD j = true) : v ≠ 0 := by
  rintro rfl
  rw [BitVec.ofNat_eq_ofNat, BitVec.getLsbD_zero] at hv
  cases hv

/-- Registers 0, 1 and 2 have 16 bits (R78). -/
theorem decodeOscSet_narrow {r : BitVec 3} {d : BitVec 32} (hr : r.toNat ≤ 2) (hd : ¬clearAbove 16 d = true) :
    decodeOscSet r d = none := by
  have hr : r = 0 ∨ r = 1 ∨ r = 2 := by bv_omega
  simp only [decodeOscSet, hd]
  rcases hr with rfl | rfl | rfl <;> rfl

/-- There is no register 6 or 7 to write (R79). -/
theorem decodeOscSet_unassigned {r : BitVec 3} (d : BitVec 32) (hr : 6 ≤ r.toNat) : decodeOscSet r d = none := by
  have hr : r = 6 ∨ r = 7 := by bv_omega
  rcases hr with rfl | rfl <;> rfl

/-- Settles O4: each clause's bit is one the opcode's equation tests. -/
theorem reservedBitSetIsIllegal : Obligations.ReservedBitSetIsIllegal := by
  unfold Obligations.ReservedBitSetIsIllegal
  intro b c k
  refine ⟨fun ho hk => ?_, fun ho hk => ?_, fun ho hk => ?_, fun ho hk => ?_, fun ho hk => ?_, fun ho hk => ?_⟩
  · rw [decode_of_opcField (o := 0x10#8) b ho, decodeFields_bxLoad, if_neg]
    rintro ⟨ha, hd⟩
    rcases hk with hk | ⟨hw, hk⟩
    · exact ne_zero_of_getLsbD hk ha
    · exact not_clearAbove hw hk hd
  · have hf : ¬(aField c = 0 ∧ dField c = 0) := by
      rintro ⟨ha, hd⟩
      exact hk.elim (ne_zero_of_getLsbD · ha) (ne_zero_of_getLsbD · hd)
    simp only [List.mem_cons, List.not_mem_nil, or_false] at ho
    rcases ho with ho | ho | ho | ho <;> rw [decode_of_opcField b ho] <;> exact if_neg hf
  · rw [decode_of_opcField (o := 0x20#8) b ho, decodeFields_srLoad, if_neg]
    rintro ⟨ha, hd⟩
    rcases hk with ⟨hw, hk⟩ | ⟨hw, hk⟩
    · exact not_clearAbove hw hk ha
    · exact not_clearAbove hw hk hd
  · rw [decode_of_opcField (o := 0x30#8) b ho, decodeFields_oscSet]
    rcases hk with ⟨h3, hk⟩ | ⟨hr, h16, hk⟩
    · rw [if_neg (not_clearAbove h3 hk)]
    · rw [decodeOscSet_narrow hr (not_clearAbove h16 hk), ite_self]
  · rw [decode_of_opcField (o := 0x31#8) b ho, decodeFields_oscRd, if_neg]
    rintro ⟨ha, hd⟩
    rcases hk with ⟨h3, hk⟩ | hk
    · exact not_clearAbove h3 hk ha
    · exact ne_zero_of_getLsbD hk hd
  · rw [decode_of_opcField (o := 0x40#8) b ho, decodeFields_oscProcess, if_neg (not_clearAbove hk.1 hk.2)]

/-- Settles O5: the all-zero word's opcode is one of the unassigned. -/
theorem unassignedWordIsIllegal : Obligations.UnassignedWordIsIllegal := by
  unfold Obligations.UnassignedWordIsIllegal
  intro b c
  refine ⟨fun ho => decodeFields_unassigned _ _ _ ho, fun ho hr => ?_, fun ho hr => ?_, decodeFields_unassigned _ _ _ (by decide)⟩
  · rw [decode_of_opcField (o := 0x30#8) b ho, decodeFields_oscSet, decodeOscSet_unassigned _ hr, ite_self]
  · rw [decode_of_opcField (o := 0x31#8) b ho, decodeFields_oscRd, hr]
    exact ite_self none

/-- Settles O10: the decoder's text names no other field of the build. -/
theorem decodeReadsOnlyTheWidths : Obligations.DecodeReadsOnlyTheWidths := by
  unfold Obligations.DecodeReadsOnlyTheWidths
  intro b b' c hw htw hnw
  rw [decode, decode, decodeFields, decodeFields, hw, htw, hnw]

/-! ### The opcode map -/

theorem getLsbD_allOnes_shiftLeft {w i : Nat} (n : Nat) (hi : i < w) :
    (BitVec.allOnes w <<< n).getLsbD i = decide (n ≤ i) := by
  have hi' : i - n < w := (Nat.sub_le i n).trans_lt hi
  rw [BitVec.getLsbD_shiftLeft, BitVec.getLsbD_allOnes, decide_eq_true hi, decide_eq_true hi', Bool.true_and, Bool.and_true,
    ← decide_not, decide_eq_decide, not_lt]

/-- The mask of a row that tests field A from bit `ka` up, field D from bit `kd` up, and all of OPC (R78). -/
def fieldMask (ka kd : Nat) : Word := BitVec.allOnes 8 ++ BitVec.allOnes 24 <<< ka ++ BitVec.allOnes 32 <<< kd

theorem getLsbD_fieldMask (ka kd : Nat) {i : Nat} (hi : i < 64) :
    (fieldMask ka kd).getLsbD i = if i < 32 then decide (kd ≤ i) else if i < 56 then decide (32 + ka ≤ i) else true := by
  rw [fieldMask, BitVec.getLsbD_append]
  split_ifs with hd ha
  · exact getLsbD_allOnes_shiftLeft kd hd
  · rw [BitVec.getLsbD_append, if_pos (by omega), getLsbD_allOnes_shiftLeft ka (by omega), decide_eq_decide]
    omega
  · rw [BitVec.getLsbD_append, if_neg (by omega), BitVec.getLsbD_allOnes, decide_eq_true (by omega)]

theorem maskFrom_eq_fieldMask {n : Nat} (hn : n ≤ 32) : maskFrom n = fieldMask 0 n := by
  refine BitVec.eq_of_getLsbD_eq fun i hi => ?_
  rw [maskFrom, getLsbD_allOnes_shiftLeft n hi, getLsbD_fieldMask 0 n hi]
  split_ifs
  · rfl
  · exact decide_eq_decide.2 (by omega)
  · exact decide_eq_true (by omega)

theorem maskFrom_or_eq_fieldMask {ka : Nat} (kd : Nat) (hka : ka ≤ 24) :
    maskFrom (32 + ka) ||| (maskFrom kd &&& 0x00000000FFFFFFFF) = fieldMask ka kd := by
  have hlow : (0x00000000FFFFFFFF : Word) = ~~~maskFrom 32 := by decide
  refine BitVec.eq_of_getLsbD_eq fun i hi => ?_
  rw [hlow, BitVec.getLsbD_or, BitVec.getLsbD_and, BitVec.getLsbD_not, getLsbD_fieldMask ka kd hi, maskFrom, maskFrom, maskFrom,
    getLsbD_allOnes_shiftLeft _ hi, getLsbD_allOnes_shiftLeft _ hi, getLsbD_allOnes_shiftLeft _ hi]
  split_ifs with hd ha
  · simp [hi, show ¬32 + ka ≤ i by omega, hd]
  · simp [show 32 ≤ i by omega]
  · simp [show 32 + ka ≤ i by omega]

/-- `v AND mask = 0` for the mask of the bits from `k` up says that `v` fits `k` bits. -/
theorem and_allOnes_shiftLeft_eq_zero {n : Nat} (k : Nat) (v : BitVec n) :
    v &&& BitVec.allOnes n <<< k = 0#n ↔ v.toNat < 2 ^ k := by
  constructor
  · refine fun h => Nat.lt_pow_two_of_testBit _ fun i hki => ?_
    by_cases hi : i < n
    · have hbit := congrArg (fun x => BitVec.getLsbD x i) h
      change v.getLsbD i = false
      simpa [BitVec.getLsbD_and, getLsbD_allOnes_shiftLeft k hi, hki] using hbit
    · exact BitVec.getLsbD_of_ge v i (not_lt.1 hi)
  · refine fun h => BitVec.eq_of_getLsbD_eq fun i hi => ?_
    rw [BitVec.getLsbD_and, getLsbD_allOnes_shiftLeft k hi]
    by_cases hki : k ≤ i
    · have hbit : v.getLsbD i = false := Nat.testBit_lt_two_pow (h.trans_le (Nat.pow_le_pow_right (by decide) hki))
      simp [hbit]
    · simp [hki]

/-- How many low bits of field A a row leaves open (R78): the count of `sr.load`, the flag of `osc.process`. -/
def Instr.freeA (b : Build) : Instr → Nat
  | .srLoad _ _ => b.nw
  | .oscProcess _ _ _ => 1
  | _ => 0

/-- How many low bits of field D a row leaves open (R78). -/
def Instr.freeD (b : Build) : Instr → Nat
  | .bxLoad _ => b.w
  | .srLoad _ _ => b.tw
  | .oscSetamp _ | .oscSetoffi _ | .oscSetoffq _ => 16
  | .oscSetcoeff _ | .oscSetphase _ | .oscSetfreq _ | .oscProcess _ _ _ => 32
  | _ => 0

/-- The bits of a field A that the command's row tests. -/
def Instr.keyA (b : Build) (i : Instr) (a : BitVec 24) : BitVec 24 := a &&& BitVec.allOnes 24 <<< i.freeA b

/-- The command's row of the map (R76), field by field. -/
def Instr.row (b : Build) (i : Instr) : OpcodeRow :=
  ⟨i.mnemonic, i.opc ++ i.keyA b i.fieldA ++ 0#32, fieldMask (i.freeA b) (i.freeD b)⟩

theorem fields_inj {o o' : BitVec 8} {a a' : BitVec 24} {d d' : BitVec 32} :
    o ++ a ++ d = o' ++ a' ++ d' ↔ o = o' ∧ a = a' ∧ d = d' := by
  refine ⟨fun h => ?_, by rintro ⟨rfl, rfl, rfl⟩; rfl⟩
  have ho := congrArg opcField h
  have ha := congrArg aField h
  have hd := congrArg dField h
  rw [opcField_fields, opcField_fields] at ho
  rw [aField_fields, aField_fields] at ha
  rw [dField_fields, dField_fields] at hd
  exact ⟨ho, ha, hd⟩

/-- What `c AND mask = match` asks of the fields of `c`. -/
theorem row_matches_iff {b : Build} {i : Instr} {c : Word} :
    (i.row b).matches c = true ↔
      opcField c = i.opc ∧ i.keyA b (aField c) = i.keyA b i.fieldA ∧ (dField c).toNat < 2 ^ i.freeD b := by
  have hand : c &&& fieldMask (i.freeA b) (i.freeD b) =
      opcField c ++ i.keyA b (aField c) ++ (dField c &&& BitVec.allOnes 32 <<< i.freeD b) := by
    rw [← fields_cover c, fieldMask, BitVec.and_append, BitVec.and_append, BitVec.and_allOnes, fields_cover, Instr.keyA]
  rw [OpcodeRow.matches, beq_iff_eq, Instr.row, hand, fields_inj, and_allOnes_shiftLeft_eq_zero]

/-- A command's own word is in its row. -/
theorem row_matches_encode {b : Build} {i : Instr} (h : i.wellFormed b = true) : (i.row b).matches (encode i) = true := by
  obtain ⟨ho, ha, hd⟩ := Laws.EncodedFields.fields_encode i
  rw [row_matches_iff, ho, ha, hd]
  refine ⟨rfl, rfl, ?_⟩
  cases i with
  | bxLoad v => exact of_decide_eq_true h
  | srLoad v n => exact of_decide_eq_true (Bool.and_eq_true_iff.1 h).1
  | oscSetamp v | oscSetoffi v | oscSetoffq v => exact toNat_setWidth_lt v
  | oscSetcoeff v | oscSetphase v | oscSetfreq v => exact v.isLt
  | oscProcess ni no eoi => exact (no ++ ni).isLt
  | _ => exact Nat.zero_lt_one

/-- A field A that fits the bits the row leaves open is no part of what the row tests. -/
theorem keyA_eq_zero_iff {b : Build} {i : Instr} {a : BitVec 24} : i.keyA b a = 0 ↔ a.toNat < 2 ^ i.freeA b :=
  and_allOnes_shiftLeft_eq_zero _ a

/-- Where the row leaves nothing of field A open, it tests all of it. -/
theorem keyA_whole {b : Build} {i : Instr} (h : i.freeA b = 0) (a : BitVec 24) : i.keyA b a = a := by
  rw [Instr.keyA, h, BitVec.shiftLeft_zero, BitVec.and_allOnes]

theorem keyA_fieldA_srLoad {b : Build} {v : BitVec 32} {n : BitVec 24} (h : (Instr.srLoad v n).wellFormed b = true) :
    (Instr.srLoad v n).keyA b (Instr.srLoad v n).fieldA = 0 :=
  keyA_eq_zero_iff.2 (of_decide_eq_true (Bool.and_eq_true_iff.1 h).2)

theorem keyA_fieldA_oscProcess (b : Build) (ni no : BitVec 16) (eoi : Bool) :
    (Instr.oscProcess ni no eoi).keyA b (Instr.oscProcess ni no eoi).fieldA = 0 :=
  keyA_eq_zero_iff.2 (by cases eoi <;> exact of_decide_eq_true rfl)

/-- One command a row, in the order of the map, its operands 0. -/
def rowCommands : List Instr :=
  [.bxLoad 0, .bxPull, .bxStat, .srLoad 0 0, .srPull, .srStat, .oscSetamp 0, .oscSetoffi 0, .oscSetoffq 0, .oscSetcoeff 0,
    .oscSetphase 0, .oscSetfreq 0, .oscRdamp, .oscRdoffi, .oscRdoffq, .oscRdcoeff, .oscRdphase, .oscRdfreq, .oscRdstat,
    .oscProcess 0 0 false]

theorem opcodeMap_eq_rows {b : Build} (hb : b.Legal) : opcodeMap b = rowCommands.map (Instr.row b) := by
  have hprocess : maskFrom 33 = fieldMask 1 32 := by decide
  rw [opcodeMap, maskFrom_or_eq_fieldMask _ hb.nw_le, maskFrom_eq_fieldMask hb.w_le, hprocess,
    maskFrom_eq_fieldMask (n := 0) (by decide), maskFrom_eq_fieldMask (n := 16) (by decide),
    maskFrom_eq_fieldMask (n := 32) (by decide)]
  simp [rowCommands, Instr.row, Instr.keyA, Instr.freeA, Instr.freeD, Instr.opc, Instr.fieldA, Instr.mnemonic]

theorem wellFormed_of_mem_rowCommands (b : Build) : ∀ i ∈ rowCommands, i.wellFormed b = true := by
  simp [rowCommands, Instr.wellFormed]

/-- The command of `rowCommands` with the mnemonic of `i`. -/
def Instr.bare : Instr → Instr
  | .bxLoad _ => .bxLoad 0
  | .srLoad _ _ => .srLoad 0 0
  | .oscSetamp _ => .oscSetamp 0
  | .oscSetoffi _ => .oscSetoffi 0
  | .oscSetoffq _ => .oscSetoffq 0
  | .oscSetcoeff _ => .oscSetcoeff 0
  | .oscSetphase _ => .oscSetphase 0
  | .oscSetfreq _ => .oscSetfreq 0
  | .oscProcess _ _ _ => .oscProcess 0 0 false
  | i => i

theorem find?_rowCommands (i : Instr) : rowCommands.find? (·.mnemonic = i.mnemonic) = some i.bare := by
  cases i <;> rfl

/-- Commands of the build that differ in operands alone have one row. -/
theorem row_bare {b : Build} {i : Instr} (h : i.wellFormed b = true) : i.bare.row b = i.row b := by
  cases i with
  | srLoad v n =>
    have h0 : (Instr.srLoad 0 0).wellFormed b = true := by simp [Instr.wellFormed]
    rw [Instr.bare, Instr.row, Instr.row, keyA_fieldA_srLoad h, keyA_fieldA_srLoad h0]
    rfl
  | oscProcess ni no eoi =>
    rw [Instr.bare, Instr.row, Instr.row, keyA_fieldA_oscProcess, keyA_fieldA_oscProcess]
    rfl
  | _ => rfl

theorem bare_eq_of_mnemonic {i j : Instr} (h : i.mnemonic = j.mnemonic) : i.bare = j.bare := by
  have hfind := find?_rowCommands i
  rw [h, find?_rowCommands j] at hfind
  exact (Option.some.inj hfind).symm

/-- A mnemonic has one row. -/
theorem row_eq_of_mnemonic {b : Build} {i j : Instr} (hi : i.wellFormed b = true) (hj : j.wellFormed b = true)
    (h : i.mnemonic = j.mnemonic) : i.row b = j.row b := by
  rw [← row_bare hi, bare_eq_of_mnemonic h, row_bare hj]

/-- A word in the row of a command decodes to a command with the row's mnemonic. -/
theorem mnemonic_decode_of_matches {b : Build} {i : Instr} {c : Word} (h : i.wellFormed b = true)
    (hm : (i.row b).matches c = true) : (decode b c).map Instr.mnemonic = some i.mnemonic := by
  obtain ⟨ho, ha, hd⟩ := row_matches_iff.1 hm
  rw [decode_of_opcField b ho]
  cases i with
  | srLoad v n =>
    rw [keyA_fieldA_srLoad h, keyA_eq_zero_iff, ← clearAbove_iff] at ha
    rw [← clearAbove_iff] at hd
    exact congrArg (Option.map Instr.mnemonic) (if_pos (And.intro ha hd))
  | oscProcess ni no eoi =>
    rw [keyA_fieldA_oscProcess, keyA_eq_zero_iff, ← clearAbove_iff] at ha
    exact congrArg (Option.map Instr.mnemonic) (if_pos ha)
  | bxLoad v =>
    rw [keyA_whole rfl, keyA_whole rfl] at ha
    rw [← clearAbove_iff] at hd
    exact congrArg (Option.map Instr.mnemonic) (if_pos (And.intro ha hd))
  | oscSetamp | oscSetoffi | oscSetoffq =>
    rw [keyA_whole rfl, keyA_whole rfl] at ha
    have hd : clearAbove 16 (dField c) = true := (clearAbove_iff _ _).2 hd
    simp [Instr.opc, ha, Instr.fieldA, decodeOscSet, Instr.mnemonic, hd]
  | oscSetcoeff | oscSetphase | oscSetfreq =>
    rw [keyA_whole rfl, keyA_whole rfl] at ha
    simp [Instr.opc, ha, Instr.fieldA, decodeOscSet, Instr.mnemonic]
  | _ =>
    rw [keyA_whole rfl, keyA_whole rfl] at ha
    have hd : dField c = 0 := BitVec.eq_of_toNat_eq (Nat.lt_one_iff.1 hd)
    rw [ha, hd]
    rfl

theorem exists_row_of_mem_opcodeMap {b : Build} (hb : b.Legal) {row : OpcodeRow} (h : row ∈ opcodeMap b) :
    ∃ i : Instr, i.wellFormed b = true ∧ i.row b = row := by
  rw [opcodeMap_eq_rows hb] at h
  obtain ⟨i, hi, rfl⟩ := List.mem_map.1 h
  exact ⟨i, wellFormed_of_mem_rowCommands b i hi, rfl⟩

/-- Settles O3: a word is in a command's row when it decodes to the row's mnemonic, and a mnemonic has one row. -/
theorem opcodeMapSaysWhatDecodes : Obligations.OpcodeMapSaysWhatDecodes := by
  unfold Obligations.OpcodeMapSaysWhatDecodes
  refine ⟨Tests.test_opcodeMap_standard, fun b c hb => ⟨fun row hr => ⟨fun hm => ?_, ?_⟩, fun row hr row' hr' hm hm' => ?_⟩⟩
  · obtain ⟨i, hi, rfl⟩ := exists_row_of_mem_opcodeMap hb hr
    exact Option.map_eq_some_iff.1 (mnemonic_decode_of_matches hi hm)
  · rintro ⟨j, hd, hmn⟩
    obtain ⟨i, hi, rfl⟩ := exists_row_of_mem_opcodeMap hb hr
    obtain ⟨rfl, hj⟩ := encode_of_decode hd
    rw [row_eq_of_mnemonic hi hj hmn.symm]
    exact row_matches_encode hj
  · obtain ⟨i, hi, rfl⟩ := exists_row_of_mem_opcodeMap hb hr
    obtain ⟨j, hj, rfl⟩ := exists_row_of_mem_opcodeMap hb hr'
    have hmn := (mnemonic_decode_of_matches hi hm).symm.trans (mnemonic_decode_of_matches hj hm')
    exact row_eq_of_mnemonic hi hj (Option.some.inj hmn)

end Sys2Proof

namespace Sys2Proof.Machine

/-! ### What the assembler accepts -/

theorem literal_lt {n v : Nat} {x : Int} (h : literal n x = some v) : v < 2 ^ n := by
  rw [literal, Option.ite_none_right_eq_some] at h
  obtain ⟨_, h⟩ := h
  cases h
  have hpos : (0 : Int) < 2 ^ n := by positivity
  have hlt := Int.emod_lt_of_pos x hpos
  zify
  rwa [Int.toNat_of_nonneg (Int.emod_nonneg x hpos.ne')]

theorem toNat_ofNat_lt {v m : Nat} (n : Nat) (h : v < m) : (BitVec.ofNat n v).toNat < m := by
  rw [BitVec.toNat_ofNat]
  exact (Nat.mod_le _ _).trans_lt h

/-- What the assembler makes here, if it accepts, are commands of the build. -/
def MakesCommandsOf (b : Build) (o : Option (List Instr)) : Prop := ∀ is, o = some is → ∀ i ∈ is, i.wellFormed b = true

section
variable {b : Build}

theorem makes_none : MakesCommandsOf b none := nofun

theorem makes_some {is : List Instr} (h : ∀ i ∈ is, i.wellFormed b = true) : MakesCommandsOf b (some is) := by
  rintro _ ⟨⟩
  exact h

theorem makes_ite {c : Prop} [Decidable c] {x y : Option (List Instr)} (hx : MakesCommandsOf b x) (hy : MakesCommandsOf b y) :
    MakesCommandsOf b (if c then x else y) := by
  split
  · exact hx
  · exact hy

theorem makes_bind {x : Option (List Instr)} {f : List Instr → Option (List Instr)} (hx : MakesCommandsOf b x)
    (hf : ∀ is, (∀ i ∈ is, i.wellFormed b = true) → MakesCommandsOf b (f is)) : MakesCommandsOf b (x >>= f) := by
  cases x with
  | none => exact makes_none
  | some is => exact hf is (hx is rfl)

theorem makes_asmNone (ops : List Int) {i : Instr} (h : i.wellFormed b = true) : MakesCommandsOf b (asmNone ops i) :=
  makes_ite (makes_some (List.forall_mem_singleton.2 h)) makes_none

theorem makes_asmOne {n : Nat} (ops : List Int) {f : Nat → Instr} (h : ∀ v < 2 ^ n, (f v).wellFormed b = true) :
    MakesCommandsOf b (asmOne n ops f) := by
  unfold asmOne
  split
  next x =>
    intro is his
    obtain ⟨v, hv, rfl⟩ := Option.map_eq_some_iff.1 his
    exact List.forall_mem_singleton.2 (h v (literal_lt hv))
  next => exact makes_none

theorem makes_asmSrLoad (ops : List Int) : MakesCommandsOf b (asmSrLoad b ops) := by
  unfold asmSrLoad
  split
  next v n =>
    cases hv : literal b.tw v with
    | none => exact makes_none
    | some x =>
      cases hn : literal b.nw n with
      | none => exact makes_none
      | some y =>
        refine makes_some (List.forall_mem_singleton.2 ?_)
        exact Bool.and_eq_true_iff.2 ⟨decide_eq_true (toNat_ofNat_lt 32 (literal_lt hv)),
          decide_eq_true (toNat_ofNat_lt 24 (literal_lt hn))⟩
  next => exact makes_none

theorem makes_asmProcess (ops : List Int) : MakesCommandsOf b (asmProcess ops) := by
  unfold asmProcess
  split
  next ni no eoi =>
    cases literal 16 ni with
    | none => exact makes_none
    | some x =>
      cases literal 16 no with
      | none => exact makes_none
      | some y => exact makes_ite (makes_some (List.forall_mem_singleton.2 rfl)) makes_none
  next => exact makes_none

theorem makes_asmCommand (mn : String) (ops : List Int) : MakesCommandsOf b (asmCommand b mn ops) := by
  unfold asmCommand
  exact makes_ite (makes_asmOne ops fun v hv => decide_eq_true (toNat_ofNat_lt 32 hv)) <|
    makes_ite (makes_asmNone ops rfl) <| makes_ite (makes_asmNone ops rfl) <| makes_ite (makes_asmSrLoad ops) <|
    makes_ite (makes_asmNone ops rfl) <| makes_ite (makes_asmNone ops rfl) <|
    makes_ite (makes_asmOne ops fun _ _ => rfl) <| makes_ite (makes_asmOne ops fun _ _ => rfl) <|
    makes_ite (makes_asmOne ops fun _ _ => rfl) <| makes_ite (makes_asmOne ops fun _ _ => rfl) <|
    makes_ite (makes_asmOne ops fun _ _ => rfl) <| makes_ite (makes_asmOne ops fun _ _ => rfl) <|
    makes_ite (makes_asmNone ops rfl) <| makes_ite (makes_asmNone ops rfl) <| makes_ite (makes_asmNone ops rfl) <|
    makes_ite (makes_asmNone ops rfl) <| makes_ite (makes_asmNone ops rfl) <| makes_ite (makes_asmNone ops rfl) <|
    makes_ite (makes_asmNone ops rfl) <| makes_ite (makes_asmProcess ops) makes_none

theorem makes_assemble (mn : String) (ops : List Int) : MakesCommandsOf b (assemble b mn ops) := by
  have hcommand := makes_asmCommand (b := b)
  unfold assemble
  refine makes_ite ?_ (makes_ite ?_ (makes_ite ?_ (hcommand mn ops)))
  · split
    next i q =>
      exact makes_bind (hcommand _ _) fun is his => makes_bind (hcommand _ _) fun js hjs =>
        makes_some (List.forall_mem_append.2 ⟨his, hjs⟩)
    next => exact makes_none
  · split
    next =>
      refine makes_bind (hcommand _ _) fun _ hamp => makes_bind (hcommand _ _) fun _ hoffi =>
        makes_bind (hcommand _ _) fun _ hoffq => makes_bind (hcommand _ _) fun _ hcoeff =>
        makes_bind (hcommand _ _) fun _ hphase => makes_some ?_
      simp only [List.forall_mem_append]
      exact ⟨⟨⟨⟨hamp, hoffi⟩, hoffq⟩, hcoeff⟩, hphase⟩
    next => exact makes_none
  · split
    next => exact hcommand _ _
    next => exact makes_none

end

/-- Settles O8: whatever it is assembled from, the command is one of the build, and decodes from its word. -/
theorem assembledCommandIsWellFormed : Obligations.AssembledCommandIsWellFormed := by
  unfold Obligations.AssembledCommandIsWellFormed
  intro b mn ops is _ h i hi
  have hwf := makes_assemble mn ops is h i hi
  exact ⟨hwf, decode_encode hwf⟩

/-! ### The pseudo-instructions (R84) -/

theorem assemble_command (b : Build) {mn : String} (h : mn ∉ ["osc.setoff", "osc.init", "osc.finish"]) (ops : List Int) :
    assemble b mn ops = asmCommand b mn ops := by
  simp only [List.mem_cons, List.not_mem_nil, or_false, not_or] at h
  obtain ⟨hsetoff, hinit, hfinish⟩ := h
  unfold assemble
  rw [if_neg hsetoff, if_neg hinit, if_neg hfinish]

theorem assemble_setoff (b : Build) (i q : Int) :
    assemble b "osc.setoff" [i, q] =
      (do let i ← asmCommand b "osc.setoffi" [i]; let q ← asmCommand b "osc.setoffq" [q]; some (i ++ q)) := rfl

theorem assemble_init (b : Build) (amp offi offq coeff phase : Int) :
    assemble b "osc.init" [amp, offi, offq, coeff, phase] =
      (do let amp ← asmCommand b "osc.setamp" [amp]
          let offi ← asmCommand b "osc.setoffi" [offi]
          let offq ← asmCommand b "osc.setoffq" [offq]
          let coeff ← asmCommand b "osc.setcoeff" [coeff]
          let phase ← asmCommand b "osc.setphase" [phase]
          some (amp ++ offi ++ offq ++ coeff ++ phase)) := rfl

theorem assemble_finish (b : Build) (no : Int) : assemble b "osc.finish" [no] = asmCommand b "osc.process" [0, no, 1] := rfl

/-- `osc.process 0, no, 1` within `DEPTH` processes nothing and ends the stream where there is room for an output (R161). -/
theorem execOscProcess_finish {s : State} {no : BitVec 16} (h : 1 ≤ no.toNat) (hd : no.toNat ≤ s.build.depth) :
    ∃ t, exec (.oscProcess 0 no true) s = .next t ∧ t.osc.finished = true := by
  refine ⟨_, execOscProcess_noSample (Nat.zero_le _) hd (Nat.zero_min _), ?_⟩
  rw [finishProcess_osc, afterProcess_finished]
  have hpos : 0 < no.toNat := h
  have hends : terminates 0 no true = true := by simpa [terminates] using hpos
  rw [hends, Bool.or_true]

/-- Settles O9: an expansion's parts are commands of R83, and joining them in groups or one by one is the same. -/
theorem pseudoInstructionsExpand : Obligations.PseudoInstructionsExpand := by
  unfold Obligations.PseudoInstructionsExpand
  intro b amp offi offq coeff phase no
  refine ⟨?_, ?_, ?_, fun s k hk hd => execOscProcess_finish hk hd⟩
  · rw [assemble_setoff, assemble_command b (by decide), assemble_command b (by decide)]
  · rw [assemble_init, assemble_setoff, assemble_command b (by decide), assemble_command b (by decide),
      assemble_command b (by decide)]
    simp only [Option.bind_eq_bind, Option.bind_assoc, Option.bind_some, List.append_assoc]
  · rw [assemble_finish, assemble_command b (by decide)]

theorem literal_of_range {n : Nat} {x : Int} (h : -2 ^ (n - 1) ≤ x ∧ x ≤ 2 ^ n - 1) : literal n x = some (low n x).toNat := by
  rw [literal, if_pos h, low, BitVec.toNat_ofInt]
  norm_cast

/-- A command with one operand, on a literal in R82's range. -/
theorem asmOne_of_range {n : Nat} {x : Int} (h : -2 ^ (n - 1) ≤ x ∧ x ≤ 2 ^ n - 1) (f : BitVec n → Instr) :
    asmOne n [x] (fun v => f (BitVec.ofNat n v)) = some [f (low n x)] := by
  rw [asmOne, literal_of_range h, Option.map_some, BitVec.ofNat_toNat, BitVec.setWidth_eq]

theorem asmCommand_finish (b : Build) {no : Int} (h : -2 ^ 15 ≤ no ∧ no ≤ 2 ^ 16 - 1) :
    asmCommand b "osc.process" [0, no, 1] = some [.oscProcess 0 (low 16 no) true] := by
  have hprocess : asmCommand b "osc.process" [0, no, 1] =
      (literal 16 no).bind fun no => some [.oscProcess 0 (BitVec.ofNat 16 no) true] := rfl
  rw [hprocess, literal_of_range (n := 16) h, Option.bind_some, BitVec.ofNat_toNat, BitVec.setWidth_eq]

theorem asmHost_command {mn : String} (h : mn ∉ ["host.wrin", "host.wrout", "host.rdin", "host.rdout"]) (ops : List Int) :
    asmHost mn ops = none := by
  simp only [List.mem_cons, List.not_mem_nil, or_false, not_or] at h
  obtain ⟨hwrin, hwrout, hrdin, hrdout⟩ := h
  unfold asmHost
  split
  · simp [hwrin, hwrout]
  · simp [hrdin, hrdout]
  · rfl

theorem asmTurns_command {b : Build} {mn : String} (h : mn ∉ ["host.wrin", "host.wrout", "host.rdin", "host.rdout"])
    {ops : List Int} {is : List Instr} (hi : assemble b mn ops = some is) :
    asmTurns b mn ops = some (is.flatMap fun i => [.act (.command (encode i)), .wait]) := by
  rw [asmTurns, asmHost_command h, hi]
  rfl

/-- Settles O55: on literals in range each part of an expansion is accepted, and no pseudo-instruction is an operation of the host. -/
theorem pseudoInstructionsNameTheirCommands : Obligations.PseudoInstructionsNameTheirCommands := by
  unfold Obligations.PseudoInstructionsNameTheirCommands
  intro b amp offi offq coeff phase no hamp hoffi hoffq hcoeff hphase hno
  have hpseudo : ∀ mn ∈ ["osc.setoff", "osc.init", "osc.finish"],
      mn ∉ ["host.wrin", "host.wrout", "host.rdin", "host.rdout"] := by decide
  have hamp : asmCommand b "osc.setamp" [amp] = _ := asmOne_of_range (n := 16) hamp .oscSetamp
  have hoffi : asmCommand b "osc.setoffi" [offi] = _ := asmOne_of_range (n := 16) hoffi .oscSetoffi
  have hoffq : asmCommand b "osc.setoffq" [offq] = _ := asmOne_of_range (n := 16) hoffq .oscSetoffq
  have hcoeff : asmCommand b "osc.setcoeff" [coeff] = _ := asmOne_of_range (n := 32) hcoeff .oscSetcoeff
  have hphase : asmCommand b "osc.setphase" [phase] = _ := asmOne_of_range (n := 32) hphase .oscSetphase
  refine ⟨?_, ?_, ?_, fun mn hmn ops is his => asmTurns_command (hpseudo mn hmn) his⟩
  · rw [assemble_setoff, hoffi, hoffq]
    rfl
  · rw [assemble_init, hamp, hoffi, hoffq, hcoeff, hphase]
    rfl
  · rw [assemble_finish, asmCommand_finish b hno]

/-! ### One response a word -/

theorem respond_illegalCommand : respond .illegalCommand 0 0 = 0x0100000000000000 := by decide

/-- Settles O12: the step is the block's turn, and the turn refuses the word. -/
theorem illegalWordIsAnsweredIllegalCommand : Obligations.IllegalWordIsAnsweredIllegalCommand := by
  unfold Obligations.IllegalWordIsAnsweredIllegalCommand
  intro s c hc hd hw
  refine ⟨State.raise { s with host := s.host.tail } .illegalCommand, ?_, ?_, answer_arch _ _ _ _⟩
  · rw [step_of_hostWaits hw, serve_of_outstanding (s := { s with host := s.host.tail }) hc]
    exact runWord_of_undecodable hd
  · rw [← respond_illegalCommand]
    exact responds_answer _ _ _ _

/-- A command that answers does so once. -/
theorem exec_responds {i : Instr} {s t : State} (h : exec i s = .next t) : ∃ r, Responds s t r := by
  obtain ⟨r, hr⟩ := exec_byUnit h
  exact ⟨r, hr.responds⟩

/-- Settles O13: a word that decodes is answered by its command, any other by ILLEGAL_COMMAND. -/
theorem eachCommandGetsOneResponse : Obligations.EachCommandGetsOneResponse := by
  unfold Obligations.EachCommandGetsOneResponse
  intro s t c h
  cases hd : decode s.build c with
  | none =>
    rw [runWord_of_undecodable hd] at h
    cases h
    exact ⟨_, responds_answer _ _ _ _⟩
  | some i =>
    rw [runWord_of_decode hd] at h
    exact exec_responds h

end Sys2Proof.Machine

/-! # The bit expander

PROOFS of the family 40_bit_expander.md: what each BX command answers and changes, and the bits a loaded value gives, whatever the
other units do in between. -/

namespace Sys2Proof.Machine

/-! ### Words -/

/-- A word that decodes to nothing is refused in the terms of R80 and R191. -/
theorem answeredIllegal_of_undecodable {c : Word} {s : State} (h : decode s.build c = none) : AnsweredIllegal c s :=
  ⟨_, runWord_of_undecodable h, respond_illegalCommand ▸ responds_answer s .illegalCommand 0 0, rfl⟩

theorem respond_ok_zero : respond .ok 0 0 = 0 := by decide

/-- The two words of a pull that emits (R103). -/
theorem respond_ok_bit (bit : Bool) :
    respond .ok 1 (if bit then 1 else 0) = if bit then 0x0000000100000001 else 0x0000000100000000 := by
  cases bit <;> decide

theorem answered_answer (s : State) (st aux data) : Answered (s.answer st aux data) st aux data := List.getLast?_concat

theorem exec_bxLoad (v : BitVec 32) (s : State) :
    exec (.bxLoad v) s =
      .next (State.answer { s with bx := ⟨lowBits 32 s.build.w v.toNat, BitVec.ofNat 6 s.build.w⟩ } .ok 0 0) := rfl

theorem exec_bxPull (s : State) : exec .bxPull s = execBxPull s := rfl

theorem exec_bxStat (s : State) : exec .bxStat s = .next (s.answer .ok (zext 24 s.bx.rem) s.bx.acc) := rfl

/-- BX_REM has room for every legal `W`. -/
theorem toNat_ofNat_width {w : Nat} (hw : w ≤ 32) : (BitVec.ofNat 6 w).toNat = w := by
  rw [BitVec.toNat_ofNat, Nat.mod_eq_of_lt (by omega)]

/-! ### One command -/

/-- Settles O26: the load writes both registers whole, and its word has no bit to spare. -/
theorem bxLoadStartsTheSequence : Obligations.BxLoadStartsTheSequence := by
  unfold Obligations.BxLoadStartsTheSequence
  intro s v hb hv
  refine ⟨decode_encode (i := .bxLoad v) (decide_eq_true hv), ⟨_, exec_bxLoad v s, ?_, lowBits_of_fits v hv, ?_, rfl⟩,
    fun c ho hf => answeredIllegal_of_undecodable ?_⟩
  · rw [← respond_ok_zero]
    exact ⟨rfl, rfl, rfl, rfl, rfl⟩
  · exact toNat_ofNat_width hb.w_le
  · rw [decode_of_opcField (o := 0x10#8) _ ho, decodeFields_bxLoad, if_neg]
    exact not_and_or.2 (hf.imp_right fun hd => mt (clearAbove_iff _ _).1 hd.not_gt)

/-- Settles O27: the pull's two cases are BX_REM = 0 and BX_REM > 0. -/
theorem bxPullEmitsTheTopBit : Obligations.BxPullEmitsTheTopBit := by
  unfold Obligations.BxPullEmitsTheTopBit
  intro s hb
  refine ⟨decode_encode (i := .bxPull) rfl, fun hr => ?_, fun hr => ?_, fun c ho hf => answeredIllegal_of_undecodable ?_⟩
  · have hrem : s.bx.rem.toNat = 0 := by simp [hr]
    exact ⟨_, execBxPull_exhausted hrem, respond_ok_zero ▸ responds_answer s .ok 0 0, rfl⟩
  · have hrem : s.bx.rem.toNat ≠ 0 := fun h => hr (BitVec.eq_of_toNat_eq h)
    refine ⟨_, execBxPull_emits hrem, ?_, lowBits_toNat _ hb.w_le, ?_, rfl⟩
    · rw [← respond_ok_bit]
      exact ⟨rfl, rfl, rfl, rfl, rfl⟩
    · have hdown : (s.bx.rem - 1).toNat = s.bx.rem.toNat - 1 := toNat_sub_one s.bx.rem (by norm_num) hrem
      simp only [answer_bx, hdown]
      omega
  · rw [decode_of_opcField (o := 0x11#8) _ ho, decodeFields_bxPull, if_neg (not_and_or.2 hf)]

/-- Settles O28: the status command's answer is the cursor, and the answer is all that it changes. -/
theorem bxStatReadsTheCursor : Obligations.BxStatReadsTheCursor := by
  unfold Obligations.BxStatReadsTheCursor
  intro s
  refine ⟨decode_encode (i := .bxStat) rfl, ⟨_, exec_bxStat s, ?_, rfl⟩, fun c ho hf => answeredIllegal_of_undecodable ?_⟩
  · rw [← zext_eq_setWidth]
    exact responds_answer s .ok _ _
  · rw [decode_of_opcField (o := 0x12#8) _ ho, decodeFields_bxStat, if_neg (not_and_or.2 hf)]

/-! ### Runs of commands -/

theorem runCommands_cons {i : Instr} {is : List Instr} {s t : State} :
    runCommands (i :: is) s = some t ↔ ∃ u, exec i s = .next u ∧ runCommands is u = some t := by
  cases h : exec i s <;> simp [runCommands, h]

theorem runCommands_append {is js : List Instr} {s t : State} :
    runCommands (is ++ js) s = some t ↔ ∃ u, runCommands is s = some u ∧ runCommands js u = some t := by
  induction is generalizing s with
  | nil => simp [runCommands]
  | cons i is ih => simp only [List.cons_append, runCommands_cons, ih]; tauto

theorem runCommands_singleton {i : Instr} {s t : State} : runCommands [i] s = some t ↔ exec i s = .next t := by
  rw [runCommands_cons]
  simp [runCommands]

/-- A command that answers in every state answers any number of times. -/
theorem repeatCommand_answers {i : Instr} (h : ∀ s, ∃ t, exec i s = .next t) (n : Nat) (s : State) :
    ∃ t, repeatCommand i n s = some t := by
  induction n with
  | zero => exact ⟨s, rfl⟩
  | succ n ih =>
    obtain ⟨t, ht⟩ := ih
    obtain ⟨u, hu⟩ := h t
    exact ⟨u, by simp only [repeatCommand, ht, hu]⟩

/-- No command but `osc.process` can stop (R12, R57). -/
theorem exec_answers {i : Instr} (hi : ∀ ni no eoi, i ≠ .oscProcess ni no eoi) (s : State) : ∃ t, exec i s = .next t := by
  rcases exec_cases i s with ⟨u, st, aux, data, h, _⟩ | ⟨ni, no, eoi, _, rfl, _⟩
  · exact ⟨_, h⟩
  · exact absurd rfl (hi ni no eoi)

theorem exec_bx_of_otherUnit {i : Instr} {s t : State} (hi : unitOf i ≠ .bx) (h : exec i s = .next t) : t.bx = s.bx :=
  (unitsShareNothing.1 i s t .bx h hi.symm).symm

/-! ### The sequence law (R104) -/

/-- BX after `k` pulls from `v` in a build with `W = w`. From pull `w` on both registers are 0, so one form serves every `k`. -/
structure Bx.AfterPulls (w : Nat) (v : BitVec 32) (k : Nat) (b : Bx) : Prop where
  acc : b.acc.toNat = v.toNat * 2 ^ k % 2 ^ w
  rem : b.rem.toNat = w - k

theorem exec_bxLoad_afterPulls {v : BitVec 32} {s t : State} (hw : s.build.w ≤ 32) (h : exec (.bxLoad v) s = .next t) :
    t.bx.AfterPulls s.build.w v 0 := by
  cases (exec_bxLoad v s).symm.trans h
  exact ⟨by simpa using lowBits_toNat v.toNat hw, toNat_ofNat_width hw⟩

/-- What has left the register stays out of it. -/
theorem mul_two_pow_mod_eq_zero (x : Nat) {w k : Nat} (h : w ≤ k) : x * 2 ^ k % 2 ^ w = 0 :=
  Nat.mod_eq_zero_of_dvd (dvd_mul_of_dvd_right (pow_dvd_pow 2 h) x)

/-- The bit that stands at the top after `k` pulls is bit `W-1-k` of the value loaded. -/
theorem Bx.AfterPulls.topBit {w k : Nat} {v : BitVec 32} {b : Bx} (h : b.AfterPulls w v k) (hk : k < w) :
    b.acc.getLsbD (w - 1) = v.getLsbD (w - 1 - k) := by
  rw [BitVec.getLsbD, h.acc, Nat.testBit_mod_two_pow, Nat.testBit_mul_two_pow, BitVec.getLsbD]
  simp [show w - 1 < w by omega, show k ≤ w - 1 by omega]

theorem Bx.AfterPulls.shift {w k : Nat} {v : BitVec 32} {b : Bx} (h : b.AfterPulls w v k) (hw : w ≤ 32) (hk : k < w) :
    Bx.AfterPulls w v (k + 1) { acc := lowBits 32 w (b.acc.toNat * 2), rem := b.rem - 1 } where
  acc := by rw [lowBits_toNat _ hw, h.acc, Nat.mod_mul_mod, pow_succ, mul_assoc]
  rem := by
    have hdown : (b.rem - 1).toNat = b.rem.toNat - 1 := toNat_sub_one b.rem (by norm_num) (by rw [h.rem]; omega)
    simp only [hdown, h.rem]
    omega

theorem Bx.AfterPulls.exhausted {w k : Nat} {v : BitVec 32} {b : Bx} (h : b.AfterPulls w v k) (hk : w ≤ k) :
    b.acc = 0 ∧ b.rem = 0 :=
  ⟨BitVec.eq_of_toNat_eq (h.acc.trans (mul_two_pow_mod_eq_zero _ hk)),
    BitVec.eq_of_toNat_eq (h.rem.trans (Nat.sub_eq_zero_of_le hk))⟩

theorem Bx.AfterPulls.stays {w k : Nat} {v : BitVec 32} {b : Bx} (h : b.AfterPulls w v k) (hk : w ≤ k) :
    b.AfterPulls w v (k + 1) where
  acc := by rw [h.acc, mul_two_pow_mod_eq_zero _ hk, mul_two_pow_mod_eq_zero _ (by omega)]
  rem := by rw [h.rem]; omega

/-- Pull `k` moves the cursor on by one, and answers the next bit or that there is none. -/
theorem exec_bxPull_afterPulls {w k : Nat} {v : BitVec 32} {s t : State} (hw : w ≤ 32) (hb : s.build.w = w)
    (hs : s.bx.AfterPulls w v k) (h : exec .bxPull s = .next t) :
    t.bx.AfterPulls w v (k + 1) ∧
      (k < w → Answered t .ok 1 (if v.getLsbD (w - 1 - k) then 1 else 0)) ∧ (w ≤ k → Answered t .ok 0 0) := by
  subst hb
  rw [exec_bxPull] at h
  have hrem := hs.rem
  rcases Nat.lt_or_ge k s.build.w with hk | hk
  · cases (execBxPull_emits (s := s) (by omega)).symm.trans h
    refine ⟨hs.shift hw hk, fun _ => ?_, fun hk' => absurd hk' (by omega)⟩
    rw [← hs.topBit hk]
    exact answered_answer _ _ _ _
  · cases (execBxPull_exhausted (s := s) (by omega)).symm.trans h
    exact ⟨hs.stays hk, fun hk' => absurd hk' (by omega), fun _ => answered_answer _ _ _ _⟩

/-- Only the pulls among the commands count. -/
theorem runCommands_afterPulls {w k : Nat} {v : BitVec 32} {is : List Instr} {s t : State} (hw : w ≤ 32) (hb : s.build.w = w)
    (his : ∀ i ∈ is, i = .bxPull ∨ unitOf i ≠ .bx) (hs : s.bx.AfterPulls w v k) (h : runCommands is s = some t) :
    t.build.w = w ∧ t.bx.AfterPulls w v (k + is.count .bxPull) := by
  induction is generalizing k s with
  | nil =>
    cases h
    exact ⟨hb, hs⟩
  | cons i is ih =>
    obtain ⟨hi, hrest⟩ := List.forall_mem_cons.1 his
    obtain ⟨u, hu, hrun⟩ := runCommands_cons.1 h
    have hbu : u.build.w = w := exec_build hu ▸ hb
    rcases hi with rfl | hi
    · have hpull := (exec_bxPull_afterPulls hw hb hs hu).1
      rw [List.count_cons_self, Nat.add_comm _ 1, ← Nat.add_assoc]
      exact ih hbu hrest hpull hrun
    · have hne : i ≠ .bxPull := ne_of_apply_ne unitOf hi
      rw [List.count_cons_of_ne hne]
      exact ih hbu hrest (exec_bx_of_otherUnit hi hu ▸ hs) hrun

/-- Settles O29: the commands before the last pull leave the cursor at the count of pulls among them, and the last pull reads it. -/
theorem bxPullsEmitTheBitsMsbFirst : Obligations.BxPullsEmitTheBitsMsbFirst := by
  unfold Obligations.BxPullsEmitTheBitsMsbFirst
  intro s s0 v hb _ hload
  refine ⟨fun n => repeatCommand_answers (exec_answers fun _ _ _ => Instr.noConfusion) n s0, fun is t his hrun => ?_⟩
  obtain ⟨u, hbefore, hlast⟩ := runCommands_append.1 hrun
  have hloaded := exec_bxLoad_afterPulls hb.w_le hload
  obtain ⟨hbu, hcursor⟩ := runCommands_afterPulls hb.w_le (by rw [exec_build hload]) his hloaded hbefore
  rw [Nat.zero_add] at hcursor
  obtain ⟨hafter, hbit, hnone⟩ := exec_bxPull_afterPulls hb.w_le hbu hcursor (runCommands_singleton.1 hlast)
  exact ⟨fun hi => ⟨hbit hi, hafter.acc, by rw [hafter.rem]; omega⟩, fun hi => ⟨hnone hi, hafter.exhausted (by omega)⟩⟩

end Sys2Proof.Machine

/-! # The symbol repeater

PROOFS of the family 41_symbol_repeater.md: what each SR command answers and changes, the run a loaded symbol gives, whatever the
other units do in between, and the host's loop of BX into SR. -/

namespace Sys2Proof.Machine

/-! ### One command of SR -/

/-- Operands of the build's widths fill SR as they are (R121). -/
theorem exec_srLoad_of_fits {s : State} {v : BitVec 32} {n : BitVec 24} (hv : v.toNat < 2 ^ s.build.tw)
    (hn : n.toNat < 2 ^ s.build.nw) : exec (.srLoad v n) s = .next (State.answer { s with sr := ⟨v, n⟩ } .ok 0 0) := by
  rw [exec, execSrLoad, lowBits_of_fits v hv, lowBits_of_fits n hn]

theorem exec_srPull (s : State) : exec .srPull s = execSrPull s := rfl

theorem exec_srStat (s : State) : exec .srStat s = .next (s.answer .ok s.sr.cnt s.sr.val) := rfl

/-- SR_CNT counts down by one where there is a copy left. -/
theorem toNat_cnt_sub_one {c : BitVec 24} (hc : c.toNat ≠ 0) : (c - 1).toNat = c.toNat - 1 :=
  toNat_sub_one c (by norm_num) hc

/-- Settles O30: operands that fit are stored whole, and the word of `sr.load` has no bit to spare. -/
theorem srLoadStartsTheRun : Obligations.SrLoadStartsTheRun := by
  unfold Obligations.SrLoadStartsTheRun
  intro s v n hv hn
  refine ⟨decode_encode (i := .srLoad v n) (by simp [Instr.wellFormed, hv, hn]), ⟨_, exec_srLoad_of_fits hv hn, ?_, rfl⟩,
    fun c ho hf => answeredIllegal_of_undecodable ?_⟩
  · rw [← respond_ok_zero]
    exact ⟨rfl, rfl, rfl, rfl, rfl⟩
  · rw [decode_of_opcField (o := 0x20#8) _ ho, decodeFields_srLoad, if_neg]
    rw [clearAbove_iff, clearAbove_iff]
    omega

/-- Settles O31: the pull's two cases are SR_CNT = 0 and SR_CNT > 0. -/
theorem srPullEmitsTheSymbol : Obligations.SrPullEmitsTheSymbol := by
  unfold Obligations.SrPullEmitsTheSymbol
  intro s
  refine ⟨decode_encode (i := .srPull) rfl, fun hz => ?_, fun hz => ?_, fun c ho hf => answeredIllegal_of_undecodable ?_⟩
  · have hcnt : s.sr.cnt.toNat = 0 := by simp [hz]
    exact ⟨_, execSrPull_exhausted hcnt, respond_ok_zero ▸ responds_answer s .ok 0 0, rfl⟩
  · have hcnt : s.sr.cnt.toNat ≠ 0 := fun h => hz (BitVec.eq_of_toNat_eq h)
    refine ⟨_, execSrPull_emits hcnt, ⟨rfl, rfl, rfl, rfl, rfl⟩, rfl, ?_, rfl⟩
    simp only [answer_sr, toNat_cnt_sub_one hcnt]
    omega
  · rw [decode_of_opcField (o := 0x21#8) _ ho, decodeFields_srPull, if_neg (not_and_or.2 hf)]

/-- Settles O32: the status command's answer is the cursor, and the answer is all that it changes. -/
theorem srStatReadsTheCursor : Obligations.SrStatReadsTheCursor := by
  unfold Obligations.SrStatReadsTheCursor
  intro s
  refine ⟨decode_encode (i := .srStat) rfl, ⟨_, exec_srStat s, responds_answer s .ok _ _, rfl⟩,
    fun c ho hf => answeredIllegal_of_undecodable ?_⟩
  rw [decode_of_opcField (o := 0x22#8) _ ho, decodeFields_srStat, if_neg (not_and_or.2 hf)]

/-! ### The run law (R124) -/

/-- SR after `k` pulls from a run of `n` copies of `v`. From pull `n` on SR_CNT is 0, so one form serves every `k`. -/
structure Sr.AfterPulls (v : BitVec 32) (n k : Nat) (r : Sr) : Prop where
  val : r.val = v
  cnt : r.cnt.toNat = n - k

theorem exec_srLoad_afterPulls {s t : State} {v : BitVec 32} {n : BitVec 24} (hv : v.toNat < 2 ^ s.build.tw)
    (hn : n.toNat < 2 ^ s.build.nw) (h : exec (.srLoad v n) s = .next t) : t.sr.AfterPulls v n.toNat 0 := by
  cases (exec_srLoad_of_fits hv hn).symm.trans h
  exact ⟨rfl, rfl⟩

/-- Pull `k` moves the cursor on by one, and answers the symbol or that there is none. -/
theorem exec_srPull_afterPulls {v : BitVec 32} {n k : Nat} {s t : State} (hs : s.sr.AfterPulls v n k)
    (h : exec .srPull s = .next t) :
    t.sr.AfterPulls v n (k + 1) ∧ (k < n → Answered t .ok 1 v) ∧ (n ≤ k → Answered t .ok 0 0) := by
  obtain ⟨hval, hcnt⟩ := hs
  rw [exec_srPull] at h
  rcases Nat.lt_or_ge k n with hk | hk
  · have hpos : s.sr.cnt.toNat ≠ 0 := by omega
    cases (execSrPull_emits hpos).symm.trans h
    refine ⟨⟨hval, ?_⟩, fun _ => hval ▸ answered_answer _ _ _ _, fun hk' => absurd hk' (by omega)⟩
    simp only [answer_sr, toNat_cnt_sub_one hpos]
    omega
  · cases (execSrPull_exhausted (s := s) (by omega)).symm.trans h
    exact ⟨⟨hval, hcnt.trans (by omega)⟩, fun hk' => absurd hk' (by omega), fun _ => answered_answer _ _ _ _⟩

/-- What each command `p` moves on by one, and no command of another unit touches, stands after a run at the count of `p` in it. -/
theorem runCommands_count {p : Instr} {P : Nat → State → Prop}
    (hp : ∀ {k s t}, P k s → exec p s = .next t → P (k + 1) t)
    (hother : ∀ {i k s t}, unitOf i ≠ unitOf p → P k s → exec i s = .next t → P k t)
    {is : List Instr} {k : Nat} {s t : State} (his : ∀ i ∈ is, i = p ∨ unitOf i ≠ unitOf p) (hs : P k s)
    (h : runCommands is s = some t) : P (k + is.count p) t := by
  induction is generalizing k s with
  | nil =>
    cases h
    exact hs
  | cons i is ih =>
    obtain ⟨hi, hrest⟩ := List.forall_mem_cons.1 his
    obtain ⟨u, hu, hrun⟩ := runCommands_cons.1 h
    rcases hi with rfl | hi
    · rw [List.count_cons_self, Nat.add_comm _ 1, ← Nat.add_assoc]
      exact ih hrest (hp hs hu) hrun
    · rw [List.count_cons_of_ne (ne_of_apply_ne unitOf hi)]
      exact ih hrest (hother hi hs hu) hrun

theorem exec_sr_of_otherUnit {i : Instr} {s t : State} (hi : unitOf i ≠ .sr) (h : exec i s = .next t) : t.sr = s.sr :=
  (unitsShareNothing.1 i s t .sr h hi.symm).symm

/-- Settles O33: the commands before the last pull leave the cursor at the count of pulls among them, and the last pull reads it. -/
theorem srPullsEmitTheRun : Obligations.SrPullsEmitTheRun := by
  unfold Obligations.SrPullsEmitTheRun
  intro s s0 v n hv hn hload
  refine ⟨fun m => repeatCommand_answers (exec_answers fun _ _ _ => Instr.noConfusion) m s0, fun is t his hrun => ?_⟩
  obtain ⟨u, hbefore, hlast⟩ := runCommands_append.1 hrun
  have hcursor := runCommands_count (p := .srPull) (P := fun k s => s.sr.AfterPulls v n.toNat k)
    (fun hs h => (exec_srPull_afterPulls hs h).1) (fun hi hs h => exec_sr_of_otherUnit hi h ▸ hs)
    his (exec_srLoad_afterPulls hv hn hload) hbefore
  rw [Nat.zero_add] at hcursor
  obtain ⟨hafter, hsymbol, hnone⟩ := exec_srPull_afterPulls hcursor (runCommands_singleton.1 hlast)
  have hcnt := hafter.cnt
  exact ⟨fun hi => ⟨hsymbol hi, hcnt⟩,
    fun hi => ⟨hnone (by omega), BitVec.eq_of_toNat_eq (hcnt.trans (Nat.sub_eq_zero_of_le hi.le))⟩⟩

/-! ### The host's loop of BX into SR (R126) -/

/-- The one response a command adds is the one it answers with, so the host reads its DATA where AUX says VALID (R74). -/
theorem validData_of_answered {i : Instr} {s t : State} {aux : BitVec 24} {data : BitVec 32} (h : exec i s = .next t)
    (ha : Answered t .ok aux data) : validData (t.seen.drop s.seen.length) = if aux = 1 then [data] else [] := by
  obtain ⟨r, hr⟩ := exec_responds h
  have hresp : r = respond .ok aux data := by simpa [Answered, hr.seen] using ha
  have haux : r.extractLsb' 32 24 = aux := hresp ▸ aField_respond _ _ _
  have hdata : r.extractLsb' 0 32 = data := hresp ▸ dField_respond _ _ _
  rw [hr.seen, List.drop_left]
  simp only [validData, List.filterMap_cons, haux, hdata, List.filterMap_nil]
  split_ifs <;> rfl

/-- `sr.pull` answers in every state, and changes nothing of the build or of BX. -/
theorem exec_srPull_frame (s : State) : ∃ t, exec .srPull s = .next t ∧ t.build = s.build ∧ t.bx = s.bx := by
  obtain ⟨t, ht⟩ := exec_answers (i := .srPull) (fun _ _ _ => Instr.noConfusion) s
  exact ⟨t, ht, exec_build ht, exec_bx_of_otherUnit (by decide) ht⟩

theorem drainSr_of_none {fuel : Nat} {s t : State} (h : exec .srPull s = .next t) (ha : Answered t .ok 0 0) :
    drainSr (fuel + 1) s = some ([], t) := by
  have hdata : validData (t.seen.drop s.seen.length) = [] := validData_of_answered h ha
  simp only [drainSr, h, hdata]

theorem drainSr_of_symbol {fuel : Nat} {s t u : State} {d : BitVec 32} {ds : List (BitVec 32)} (h : exec .srPull s = .next t)
    (ha : Answered t .ok 1 d) (hrest : drainSr fuel t = some (ds, u)) : drainSr (fuel + 1) s = some (d :: ds, u) := by
  have hdata : validData (t.seen.drop s.seen.length) = [d] := validData_of_answered h ha
  simp only [drainSr, h, hdata, hrest, Option.map_some]

/-- The inner loop gets the copies that are left, and takes one pull more than that to learn that there is none. -/
theorem drainSr_run {v : BitVec 32} {n k m : Nat} {s : State} (hm : m + k = n) (hs : s.sr.AfterPulls v n k) :
    ∃ t, drainSr (m + 1) s = some (List.replicate m v, t) ∧ t.build = s.build ∧ t.bx = s.bx := by
  induction m generalizing k s with
  | zero =>
    obtain ⟨t, ht, hbuild, hbx⟩ := exec_srPull_frame s
    obtain ⟨-, -, hnone⟩ := exec_srPull_afterPulls hs ht
    exact ⟨t, drainSr_of_none ht (hnone (by omega)), hbuild, hbx⟩
  | succ m ih =>
    obtain ⟨t, ht, hbuild, hbx⟩ := exec_srPull_frame s
    obtain ⟨hafter, hsymbol, -⟩ := exec_srPull_afterPulls hs ht
    obtain ⟨u, hu, hbuild', hbx'⟩ := ih (by omega) hafter
    exact ⟨u, drainSr_of_symbol ht (hsymbol (by omega)) hu, hbuild'.trans hbuild, hbx'.trans hbx⟩

/-- The symbols the host's loop gets from one payload value: each of its bits `n` times. -/
def repeatedBits (n : Nat) (bits : List (BitVec 32)) : List (BitVec 32) := bits.flatMap fun bit => List.replicate n bit

@[simp] theorem bitsMsbFirst_length (w : Nat) (v : BitVec 32) : (bitsMsbFirst w v).length = w := by
  simp [bitsMsbFirst]

/-- What is left of the bits before pull `k` is bit `W-1-k`, and what is left after it. -/
theorem bitsMsbFirst_drop {w k : Nat} (v : BitVec 32) (hk : k < w) :
    (bitsMsbFirst w v).drop k = (if v.getLsbD (w - 1 - k) then 1 else 0) :: (bitsMsbFirst w v).drop (k + 1) := by
  rw [List.drop_eq_getElem_cons (by simpa using hk)]
  simp [bitsMsbFirst]

theorem bit_of_mem_bitsMsbFirst {w : Nat} {v d : BitVec 32} (h : d ∈ bitsMsbFirst w v) : d = 0 ∨ d = 1 := by
  obtain ⟨i, -, rfl⟩ := List.mem_map.1 h
  split_ifs
  · exact .inr rfl
  · exact .inl rfl

/-- A bit is a symbol in every legal build. -/
theorem toNat_bit_lt {tw : Nat} (htw : 1 ≤ tw) (bit : Bool) : (if bit then 1 else 0 : BitVec 32).toNat < 2 ^ tw := by
  have hle : (if bit then 1 else 0 : BitVec 32).toNat ≤ 1 := by cases bit <;> decide
  exact hle.trans_lt (Nat.one_lt_two_pow (by omega))

theorem drainBx_of_none {n : BitVec 24} {fuel : Nat} {s t : State} (h : exec .bxPull s = .next t) (ha : Answered t .ok 0 0) :
    drainBx n (fuel + 1) s = some ([], t) := by
  have hdata : validData (t.seen.drop s.seen.length) = [] := validData_of_answered h ha
  simp only [drainBx, h, hdata]

theorem drainBx_of_bit {n : BitVec 24} {fuel : Nat} {s t u r x : State} {bit : BitVec 32} {ds es : List (BitVec 32)}
    (h : exec .bxPull s = .next t) (ha : Answered t .ok 1 bit) (hload : exec (.srLoad bit n) t = .next u)
    (hrun : drainSr (n.toNat + 1) u = some (ds, r)) (hrest : drainBx n fuel r = some (es, x)) :
    drainBx n (fuel + 1) s = some (ds ++ es, x) := by
  have hdata : validData (t.seen.drop s.seen.length) = [bit] := validData_of_answered h ha
  simp only [drainBx, h, hdata, hload, hrun, hrest, Option.bind_eq_bind, Option.bind_some]

/-- A symbol loaded into SR and drained comes back `n` times, and BX does not notice. -/
theorem srLoad_then_drainSr {s : State} {v : BitVec 32} {n : BitVec 24} (hv : v.toNat < 2 ^ s.build.tw)
    (hn : n.toNat < 2 ^ s.build.nw) :
    ∃ t u, exec (.srLoad v n) s = .next t ∧ drainSr (n.toNat + 1) t = some (List.replicate n.toNat v, u) ∧
      u.build = s.build ∧ u.bx = s.bx := by
  have hload := exec_srLoad_of_fits hv hn
  obtain ⟨u, hu, hbuild, hbx⟩ := drainSr_run (Nat.add_zero _) (exec_srLoad_afterPulls hv hn hload)
  exact ⟨_, u, hload, hu, hbuild, hbx⟩

/-- The middle loop gets each bit that is left, `n` times. -/
theorem drainBx_run {w k m : Nat} {v : BitVec 32} {n : BitVec 24} {s : State} (hl : s.build.Legal) (hw : s.build.w = w)
    (hn : n.toNat < 2 ^ s.build.nw) (hm : m + k = w) (hs : s.bx.AfterPulls w v k) :
    ∃ t, drainBx n (m + 1) s = some (repeatedBits n.toNat ((bitsMsbFirst w v).drop k), t) ∧ t.build = s.build := by
  have hw32 : w ≤ 32 := hw ▸ hl.w_le
  induction m generalizing k s with
  | zero =>
    obtain ⟨t, ht⟩ := exec_answers (i := .bxPull) (fun _ _ _ => Instr.noConfusion) s
    obtain ⟨-, -, hnone⟩ := exec_bxPull_afterPulls hw32 hw hs ht
    have hdone : (bitsMsbFirst w v).drop k = [] := List.drop_of_length_le (by rw [bitsMsbFirst_length]; omega)
    rw [hdone]
    exact ⟨t, drainBx_of_none ht (hnone (by omega)), exec_build ht⟩
  | succ m ih =>
    obtain ⟨t, ht⟩ := exec_answers (i := .bxPull) (fun _ _ _ => Instr.noConfusion) s
    obtain ⟨hafter, hbit, -⟩ := exec_bxPull_afterPulls hw32 hw hs ht
    have hbt : t.build = s.build := exec_build ht
    obtain ⟨u, r, hload, hrun, hbr, hbx⟩ :=
      srLoad_then_drainSr (s := t) (n := n) (toNat_bit_lt (hbt ▸ hl.tw_pos) (v.getLsbD (w - 1 - k))) (hbt ▸ hn)
    have hbuild : r.build = s.build := hbr.trans hbt
    obtain ⟨x, hx, hbx'⟩ := ih (s := r) (k := k + 1) (hbuild ▸ hl) (hbuild ▸ hw) (hbuild ▸ hn) (by omega) (hbx ▸ hafter)
    rw [bitsMsbFirst_drop v (by omega : k < w)]
    exact ⟨x, drainBx_of_bit ht (hbit (by omega)) hload hrun hx, hbx'.trans hbuild⟩

theorem flattenPayload_cons {n : BitVec 24} {v : BitVec 32} {vs ds es : List (BitVec 32)} {s t u x : State}
    (hload : exec (.bxLoad v) s = .next t) (hv : drainBx n (s.build.w + 1) t = some (ds, u))
    (hvs : flattenPayload n vs u = some (es, x)) : flattenPayload n (v :: vs) s = some (ds ++ es, x) := by
  simp only [flattenPayload, hload, hv, hvs, Option.bind_eq_bind, Option.bind_some]

/-- The outer loop gets the bits of every value, `n` times each. -/
theorem flattenPayload_run {w : Nat} (vs : List (BitVec 32)) {n : BitVec 24} {s : State} (hl : s.build.Legal)
    (hw : s.build.w = w) (hn : n.toNat < 2 ^ s.build.nw) :
    ∃ t, flattenPayload n vs s = some (vs.flatMap fun v => repeatedBits n.toNat (bitsMsbFirst w v), t) := by
  induction vs generalizing s with
  | nil => exact ⟨s, rfl⟩
  | cons v vs ih =>
    obtain ⟨t, hload⟩ := exec_answers (i := .bxLoad v) (fun _ _ _ => Instr.noConfusion) s
    have hbt : t.build = s.build := exec_build hload
    have hcursor : t.bx.AfterPulls w v 0 := hw ▸ exec_bxLoad_afterPulls hl.w_le hload
    obtain ⟨u, hu, hbu⟩ := drainBx_run (hbt ▸ hl) (hbt ▸ hw) (hbt ▸ hn) (Nat.add_zero w) hcursor
    have hbuild : u.build = s.build := hbu.trans hbt
    obtain ⟨x, hx⟩ := ih (s := u) (hbuild ▸ hl) (hbuild ▸ hw) (hbuild ▸ hn)
    exact ⟨x, flattenPayload_cons hload (hw ▸ hu) hx⟩

theorem length_repeatedBits (n : Nat) (bits : List (BitVec 32)) : (repeatedBits n bits).length = bits.length * n := by
  simp [repeatedBits, List.length_flatMap]

/-- Settles O34: the three loops, one inside the other, get a run of each bit, and there are `W` bits in a value. -/
theorem flattenedPayloadIsTheRepeatedBits : Obligations.FlattenedPayloadIsTheRepeatedBits := by
  unfold Obligations.FlattenedPayloadIsTheRepeatedBits
  intro s vs n hl _ hn
  obtain ⟨t, ht⟩ := flattenPayload_run vs hl rfl hn
  refine ⟨_, t, ht, rfl, ?_, fun d hd => ?_⟩
  · simp [List.length_flatMap, length_repeatedBits, mul_assoc]
  · obtain ⟨v, -, hv⟩ := List.mem_flatMap.1 hd
    obtain ⟨bit, hbit, hrep⟩ := List.mem_flatMap.1 hv
    rw [List.eq_of_mem_replicate hrep]
    exact bit_of_mem_bitsMsbFirst hbit

end Sys2Proof.Machine

/-! # The oscillator's arithmetic

PROOFS of the family 42_oscillator.md, section 2: the frequency and the output lanes are the exact products rounded down, and
`PTS_default` is the rounded quadrature. -/

namespace Sys2Proof.Machine

/-! ### Rounding down, and patterns of integers (R10, R142, R143) -/

/-- The model's shift is the exact quotient rounded down. -/
theorem floor_div_eq_asr (x : ℤ) (n : ℕ) : ⌊(x : ℚ) / 2 ^ n⌋ = asr x n := by
  have h := Rat.floor_intCast_div_natCast x (2 ^ n)
  push_cast at h
  exact h

theorem toNat_low (n : ℕ) (x : ℤ) : ((low n x).toNat : ℤ) = x % 2 ^ n := by
  rw [low, BitVec.toNat_ofInt, Int.toNat_of_nonneg (Int.emod_nonneg _ (by positivity))]
  norm_cast

/-- A 16-bit pattern keeps an integer in its signed range. -/
theorem toInt_low16 {x : ℤ} (hl : -32768 ≤ x) (hu : x ≤ 32767) : (low 16 x).toInt = x := by
  rw [low, BitVec.toInt_ofInt]
  exact Int.bmod_eq_of_le (by omega) (by omega)

/-- Stepping by the pattern of a signed frequency is stepping by the frequency, modulo one cycle (R160). -/
theorem toNat_phaseStep_low (p : Phase) (x : ℤ) : ((phaseStep p (low 32 x)).toNat : ℤ) = (p.toNat + x) % 2 ^ 32 := by
  rw [phaseStep, toNat_low, toNat_low, Int.add_emod_emod]

/-- Settles O38: the frequency is the pattern of the product shifted right, and the shift rounds down. -/
theorem frequencyIsTheRoundedProduct : Obligations.FrequencyIsTheRoundedProduct := by
  unfold Obligations.FrequencyIsTheRoundedProduct
  intro c k p
  rw [floor_div_eq_asr]
  exact ⟨toNat_low 32 _, toNat_phaseStep_low p _⟩

theorem sat16_eq_max_min (x : ℤ) : sat16 x = max (-32768) (min 32767 x) := by
  unfold sat16
  split_ifs <;> omega

/-- A lane, read as a signed number, is the saturated sum (R143). -/
theorem toInt_outLane (s amp off : Q214) :
    (outLane s amp off).toInt = max (-32768) (min 32767 (⌊((s.toInt * amp.toInt : ℤ) : ℚ) / 2 ^ 14⌋ + off.toInt)) := by
  rw [floor_div_eq_asr, ← sat16_eq_max_min]
  exact toInt_low16 (by rw [sat16_eq_max_min]; omega) (by rw [sat16_eq_max_min]; omega)

/-- Settles O39: an entry is its two lanes side by side. -/
theorem outputLanesSaturate : Obligations.OutputLanesSaturate := by
  unfold Obligations.OutputLanesSaturate
  intro sI sQ amp offi offq
  have hI : (outOf (sI, sQ) amp offi offq).extractLsb' 0 16 = outLane sI amp offi := BitVec.extractLsb'_append_eq_right
  have hQ : (outOf (sI, sQ) amp offi offq).extractLsb' 16 16 = outLane sQ amp offq := BitVec.extractLsb'_append_eq_left
  exact ⟨by rw [hI, toInt_outLane], by rw [hQ, toInt_outLane]⟩

/-! ### One step of 1/4096 cycle, in integers

R171's table is checked against the powers of `exp(2πi/4096)`. These are followed in fixed point with 40 fraction bits: each step
multiplies by the same rounded rotor, so its error adds at most 4 units, and 1024 steps stay far inside half a unit of the table. -/

/-- `exp(2πi/4096)` in units of `2^-40`, each part rounded down. -/
def rotor : ℤ × ℤ := (1099510334147, 1686629051)

/-- The product with the rotor, rounded down to units of `2^-40`. -/
def rotate (w : ℤ × ℤ) : ℤ × ℤ :=
  ((rotor.1 * w.1 - rotor.2 * w.2) / 2 ^ 40, (rotor.1 * w.2 + rotor.2 * w.1) / 2 ^ 40)

/-- The `m`-th power of the rotor in fixed point, from 1. -/
def rotated (m : ℕ) : ℤ × ℤ := rotate^[m] (2 ^ 40, 0)

/-- A pair of integers as a complex number. -/
noncomputable def phasor (w : ℤ × ℤ) : ℂ := w.1 + w.2 * Complex.I

/-- `exp(2πi/4096)`. -/
noncomputable def unitStep : ℂ := Complex.exp ((Real.pi / 2048 : ℝ) * Complex.I)

theorem norm_unitStep : ‖unitStep‖ = 1 := Complex.norm_exp_ofReal_mul_I _

theorem unitStep_pow (m : ℕ) : unitStep ^ m = Complex.exp ((2 * Real.pi * m / 4096 : ℝ) * Complex.I) := by
  rw [unitStep, ← Complex.exp_nat_mul]
  congr 1
  push_cast
  ring

theorem re_unitStep_pow (m : ℕ) : (unitStep ^ m).re = Real.cos (2 * Real.pi * m / 4096) := by
  rw [unitStep_pow, Complex.exp_ofReal_mul_I_re]

theorem phasor_re (w : ℤ × ℤ) : (phasor w).re = w.1 := by simp [phasor]

theorem phasor_im (w : ℤ × ℤ) : (phasor w).im = w.2 := by simp [phasor]

/-- The angle of one step, in radians. -/
theorem stepAngle_bounds : 0.001533980787885641 < Real.pi / 2048 ∧ Real.pi / 2048 < 0.001533980787885642 := by
  constructor <;> linarith [Real.pi_gt_d20, Real.pi_lt_d20]

/-- Two terms of the cosine's series are enough for one small step. -/
theorem abs_rotor_sub_cos_le : |rotor.1 - 2 ^ 40 * Real.cos (Real.pi / 2048)| ≤ 1 := by
  obtain ⟨hl, hu⟩ := stepAngle_bounds
  have hpos : 0 < Real.pi / 2048 := by positivity
  have hcos := Real.cos_bound (x := Real.pi / 2048) (by rw [abs_of_pos hpos]; linarith)
  rw [abs_of_pos hpos] at hcos
  generalize Real.pi / 2048 = x at *
  have hsq : (0.001533980787885641 : ℝ) ^ 2 ≤ x ^ 2 ∧ x ^ 2 ≤ 0.001533980787885642 ^ 2 := ⟨by gcongr, by gcongr⟩
  have hfourth : x ^ 4 ≤ 0.001533980787885642 ^ 4 := by gcongr
  simp only [rotor, abs_le] at hcos ⊢
  norm_num at hcos hsq hfourth ⊢
  constructor <;> linarith

/-- Two terms of the sine's series are enough for one small step. -/
theorem abs_rotor_sub_sin_le : |rotor.2 - 2 ^ 40 * Real.sin (Real.pi / 2048)| ≤ 1 := by
  obtain ⟨hl, hu⟩ := stepAngle_bounds
  have hpos : 0 < Real.pi / 2048 := by positivity
  have hsin := Real.sin_bound (x := Real.pi / 2048) (by rw [abs_of_pos hpos]; linarith)
  rw [abs_of_pos hpos] at hsin
  generalize Real.pi / 2048 = x at *
  have hcube : (0.001533980787885641 : ℝ) ^ 3 ≤ x ^ 3 ∧ x ^ 3 ≤ 0.001533980787885642 ^ 3 := ⟨by gcongr, by gcongr⟩
  have hfifth : x ^ 5 ≤ 0.001533980787885642 ^ 5 := by gcongr
  simp only [rotor, abs_le] at hsin ⊢
  norm_num at hsin hcube hfifth ⊢
  constructor <;> linarith

/-- The rotor is within 2 units of the step it stands for. -/
theorem norm_rotor_sub_le : ‖phasor rotor - 2 ^ 40 * unitStep‖ ≤ 2 := by
  have hre : (phasor rotor - 2 ^ 40 * unitStep).re = rotor.1 - 2 ^ 40 * Real.cos (Real.pi / 2048) := by
    rw [Complex.sub_re, phasor_re, unitStep, ← Complex.exp_ofReal_mul_I_re]
    norm_num
  have him : (phasor rotor - 2 ^ 40 * unitStep).im = rotor.2 - 2 ^ 40 * Real.sin (Real.pi / 2048) := by
    rw [Complex.sub_im, phasor_im, unitStep, ← Complex.exp_ofReal_mul_I_im]
    norm_num
  calc
    ‖phasor rotor - 2 ^ 40 * unitStep‖
    _ ≤ |(phasor rotor - 2 ^ 40 * unitStep).re| + |(phasor rotor - 2 ^ 40 * unitStep).im| := Complex.norm_le_abs_re_add_abs_im _
    _ ≤ 1 + 1 := by rw [hre, him]; exact add_le_add abs_rotor_sub_cos_le abs_rotor_sub_sin_le
    _ = 2 := by norm_num

theorem norm_rotor_le : ‖phasor rotor‖ ≤ 2 ^ 40 := by
  rw [Complex.norm_def, Complex.normSq_apply, phasor_re, phasor_im, Real.sqrt_le_left (by positivity)]
  norm_num [rotor]

/-- An integer quotient is within 1 of the exact one. -/
theorem abs_ediv_sub_le (x : ℤ) : |((x / 2 ^ 40 : ℤ) : ℝ) - x / 2 ^ 40| ≤ 1 := by
  have hfloor : ⌊(x : ℝ) / 2 ^ 40⌋ = x / 2 ^ 40 := by
    have h := Int.floor_div_natCast (x : ℝ) (2 ^ 40)
    rw [Int.floor_intCast] at h
    exact_mod_cast h
  have hl := Int.floor_le ((x : ℝ) / 2 ^ 40)
  have hu := Int.lt_floor_add_one ((x : ℝ) / 2 ^ 40)
  rw [← hfloor, abs_le]
  constructor <;> linarith

/-- The product of two pairs before it is scaled down again. -/
theorem phasor_mul (v w : ℤ × ℤ) : phasor v * phasor w = phasor (v.1 * w.1 - v.2 * w.2, v.1 * w.2 + v.2 * w.1) := by
  apply Complex.ext <;> simp [phasor]

/-- Rounding down moves the product by at most 2 units. -/
theorem norm_rotate_sub_le (w : ℤ × ℤ) : ‖phasor (rotate w) - phasor rotor * phasor w / 2 ^ 40‖ ≤ 2 := by
  have hunit : (2 ^ 40 : ℂ) = ((2 ^ 40 : ℝ) : ℂ) := by norm_num
  rw [phasor_mul, hunit]
  refine (Complex.norm_le_abs_re_add_abs_im _).trans ?_
  rw [Complex.sub_re, Complex.sub_im, Complex.div_ofReal_re, Complex.div_ofReal_im]
  simp only [phasor_re, phasor_im]
  exact (add_le_add (abs_ediv_sub_le _) (abs_ediv_sub_le _)).trans one_add_one_eq_two.le

theorem rotated_succ (m : ℕ) : rotated (m + 1) = rotate (rotated m) := Function.iterate_succ_apply' _ _ _

/-- After `m` steps the fixed-point power is within `4m` units of the true one: a step adds 2 units for its rounding and 2 for the
rotor's, and neither the rotor nor the true step stretches what was there. -/
theorem norm_rotated_sub_le (m : ℕ) : ‖phasor (rotated m) - 2 ^ 40 * unitStep ^ m‖ ≤ 4 * m := by
  induction m with
  | zero => norm_num [rotated, phasor]
  | succ m ih =>
    have hsplit : phasor (rotated (m + 1)) - 2 ^ 40 * unitStep ^ (m + 1) =
        (phasor (rotate (rotated m)) - phasor rotor * phasor (rotated m) / 2 ^ 40) +
        (phasor rotor / 2 ^ 40 * (phasor (rotated m) - 2 ^ 40 * unitStep ^ m) +
          (phasor rotor - 2 ^ 40 * unitStep) * unitStep ^ m) := by
      rw [rotated_succ]
      ring
    have hrotor : ‖phasor rotor / 2 ^ 40‖ ≤ 1 := by
      rw [norm_div, div_le_one (by norm_num)]
      exact norm_rotor_le.trans (by norm_num)
    calc
      ‖phasor (rotated (m + 1)) - 2 ^ 40 * unitStep ^ (m + 1)‖
      _ ≤ 2 + (1 * (4 * m) + 2 * 1) := by
        rw [hsplit]
        refine (norm_add_le _ _).trans (add_le_add (norm_rotate_sub_le _) ((norm_add_le _ _).trans (add_le_add ?_ ?_)))
        · rw [norm_mul]
          exact mul_le_mul hrotor ih (norm_nonneg _) zero_le_one
        · rw [norm_mul, norm_pow, norm_unitStep, one_pow]
          exact mul_le_mul_of_nonneg_right norm_rotor_sub_le zero_le_one
      _ = 4 * (m + 1 : ℕ) := by push_cast; ring

theorem abs_rotated_sub_cos_le (m : ℕ) :
    |((rotated m).1 : ℝ) - 2 ^ 40 * Real.cos (2 * Real.pi * m / 4096)| ≤ (4 * m : ℝ) := by
  have hre : (phasor (rotated m) - 2 ^ 40 * unitStep ^ m).re = (rotated m).1 - 2 ^ 40 * Real.cos (2 * Real.pi * m / 4096) := by
    rw [Complex.sub_re, phasor_re, ← re_unitStep_pow]
    norm_num
  rw [← hre]
  exact (Complex.abs_re_le_norm _).trans (norm_rotated_sub_le m)

/-! ### R171's table -/

/-- `x` in units of `2^-40` is nearer to the table's value `t` than half a unit of the table, by more than the error that 1024
steps gather. -/
def nearTo (x t : ℤ) : Bool := Nat.blt ((2 * (2 ^ 14 * x - 2 ^ 40 * t)).natAbs + 2 ^ 27) (2 ^ 40)

/-- The next `n` values of the table, from `m` on, are near the powers that `w` goes on to. -/
def tableFits (m : ℕ) (w : ℤ × ℤ) : ℕ → Bool
  | 0 => true
  | n + 1 => nearTo w.1 (cosTable m) && tableFits (m + 1) (rotate w) n

theorem nearTo_of_tableFits {m i n : ℕ} {w : ℤ × ℤ} (h : tableFits m w n = true) (hi : i < n) :
    nearTo (rotate^[i] w).1 (cosTable (m + i)) = true := by
  induction n generalizing m i w with
  | zero => exact absurd hi (Nat.not_lt_zero i)
  | succ n ih =>
    rw [tableFits, Bool.and_eq_true] at h
    obtain ⟨hfirst, hrest⟩ := h
    cases i with
    | zero =>
      rw [Nat.add_zero, Function.iterate_zero_apply]
      exact hfirst
    | succ i =>
      rw [show m + (i + 1) = m + 1 + i by omega, Function.iterate_succ_apply]
      exact ih hrest (by omega)

/-- All 1025 values of R171 are checked, by the kernel's evaluation of 1024 rotations. -/
theorem tableFits_whole : tableFits 0 (2 ^ 40, 0) 1025 = true := by decide +kernel

/-- `t` is the one integer nearest to `x`. -/
def NearestInt (t : ℤ) (x : ℝ) : Prop := |x - t| < 1 / 2

theorem NearestInt.round {t : ℤ} {x : ℝ} (h : NearestInt t x) : round x = t := by
  obtain ⟨hl, hu⟩ := abs_lt.1 h
  exact round_eq_iff.2 ⟨by linarith, by linarith⟩

theorem NearestInt.neg {t : ℤ} {x : ℝ} (h : NearestInt t x) : NearestInt (-t) (-x) := by
  rw [NearestInt, Int.cast_neg, neg_sub_neg, abs_sub_comm]
  exact h

/-- The integer nearest to a number that is at most 16384 in size is at most 16384 in size. -/
theorem NearestInt.bounds {t : ℤ} {y : ℝ} (h : NearestInt t (16384 * y)) (hy : |y| ≤ 1) : -16384 ≤ t ∧ t ≤ 16384 := by
  obtain ⟨hl, hu⟩ := abs_lt.1 h
  obtain ⟨hyl, hyu⟩ := abs_le.1 hy
  have htl : (-16385 : ℝ) < t := by linarith
  have htu : (t : ℝ) < 16385 := by linarith
  norm_cast at htl htu
  exact ⟨htl, Int.lt_add_one_iff.1 htu⟩

/-- R171 and R144 agree on the first quarter: the table's value is near the fixed-point power, and that is near the cosine. -/
theorem cosTable_nearest {m : ℕ} (hm : m ≤ 1024) : NearestInt (cosTable m) (16384 * Real.cos (2 * Real.pi * m / 4096)) := by
  have hnear : nearTo (rotated m).1 (cosTable (0 + m)) = true := nearTo_of_tableFits tableFits_whole (by omega)
  rw [Nat.zero_add, nearTo, Nat.blt_eq] at hnear
  rw [← Nat.cast_lt (α := ℝ)] at hnear
  push_cast [Nat.cast_natAbs] at hnear
  have herr : |((rotated m).1 : ℝ) - 2 ^ 40 * Real.cos (2 * Real.pi * m / 4096)| ≤ 4 * 1024 :=
    (abs_rotated_sub_cos_le m).trans (by norm_cast; omega)
  generalize Real.cos (2 * Real.pi * m / 4096) = c at *
  obtain ⟨hcl, hcu⟩ := abs_le.1 herr
  obtain ⟨htl, htu⟩ := abs_lt.1 (lt_sub_iff_add_lt.2 hnear)
  rw [NearestInt, abs_lt]
  constructor <;> linarith

/-! ### The four quarters (R171) -/

/-- `s` holds the rounded cosine and sine of `j` steps (R144). -/
def IsQuadrature (j : ℕ) (s : ℤ × ℤ) : Prop :=
  NearestInt s.1 (16384 * Real.cos (2 * Real.pi * j / 4096)) ∧ NearestInt s.2 (16384 * Real.sin (2 * Real.pi * j / 4096))

theorem quadratureAt_firstQuarter {j : ℕ} (hj : j < 1024) : quadratureAt j = (cosTable j, cosTable (1024 - j)) := by
  simp [quadratureAt, Nat.mod_eq_of_lt hj, Nat.div_eq_of_lt hj]

/-- A quarter turn on, the cosine is minus the sine before, and the sine is the cosine. -/
theorem quadratureAt_quarterTurn {j : ℕ} (hj : j < 4096) :
    quadratureAt ((j + 1024) % 4096) = (-(quadratureAt j).2, (quadratureAt j).1) := by
  have hr : (j + 1024) % 4096 % 1024 = j % 1024 := by omega
  have hq : j / 1024 = 0 ∨ j / 1024 = 1 ∨ j / 1024 = 2 ∨ j / 1024 = 3 := by omega
  rcases hq with hq | hq | hq | hq
  · simp [quadratureAt, hr, hq, show (j + 1024) % 4096 / 1024 = 1 by omega]
  · simp [quadratureAt, hr, hq, show (j + 1024) % 4096 / 1024 = 2 by omega]
  · simp [quadratureAt, hr, hq, show (j + 1024) % 4096 / 1024 = 3 by omega]
  · simp [quadratureAt, hr, hq, show (j + 1024) % 4096 / 1024 = 0 by omega]

theorem isQuadrature_firstQuarter {j : ℕ} (hj : j < 1024) : IsQuadrature j (quadratureAt j) := by
  have hsin : Real.sin (2 * Real.pi * j / 4096) = Real.cos (2 * Real.pi * (1024 - j : ℕ) / 4096) := by
    rw [← Real.cos_pi_div_two_sub, Nat.cast_sub hj.le]
    congr 1
    push_cast
    ring
  rw [quadratureAt_firstQuarter hj, IsQuadrature, hsin]
  exact ⟨cosTable_nearest hj.le, cosTable_nearest (by omega)⟩

theorem IsQuadrature.quarterTurn {j : ℕ} {s : ℤ × ℤ} (h : IsQuadrature j s) : IsQuadrature (j + 1024) (-s.2, s.1) := by
  have hangle : 2 * Real.pi * (j + 1024 : ℕ) / 4096 = 2 * Real.pi * j / 4096 + Real.pi / 2 := by
    push_cast
    ring
  obtain ⟨hcos, hsin⟩ := h
  rw [IsQuadrature, hangle, Real.cos_add_pi_div_two, Real.sin_add_pi_div_two, mul_neg]
  exact ⟨hsin.neg, hcos⟩

theorem isQuadrature_add_quarter {j : ℕ} (hj : j + 1024 < 4096) (h : IsQuadrature j (quadratureAt j)) :
    IsQuadrature (j + 1024) (quadratureAt (j + 1024)) := by
  have hturn := quadratureAt_quarterTurn (j := j) (by omega)
  rw [Nat.mod_eq_of_lt hj] at hturn
  rw [hturn]
  exact h.quarterTurn

theorem isQuadrature_quadratureAt {j : ℕ} (hj : j < 4096) : IsQuadrature j (quadratureAt j) := by
  induction j using Nat.strong_induction_on with
  | h j ih =>
    rcases Nat.lt_or_ge j 1024 with hfirst | hlater
    · exact isQuadrature_firstQuarter hfirst
    · obtain ⟨i, rfl⟩ := Nat.exists_eq_add_of_le' hlater
      exact isQuadrature_add_quarter hj (ih i (by omega) (by omega))

/-- The index of a phase: its 12 upper bits (R144). -/
def phaseIndex (p : Phase) : ℕ := (p.extractLsb' 20 12).toNat

theorem phaseIndex_lt (p : Phase) : phaseIndex p < 4096 := (p.extractLsb' 20 12).isLt

theorem isQuadrature_phaseIndex (p : Phase) : IsQuadrature (phaseIndex p) (quadratureAt (phaseIndex p)) :=
  isQuadrature_quadratureAt (phaseIndex_lt p)

theorem quadratureAt_bounds (p : Phase) :
    (-16384 ≤ (quadratureAt (phaseIndex p)).1 ∧ (quadratureAt (phaseIndex p)).1 ≤ 16384) ∧
    (-16384 ≤ (quadratureAt (phaseIndex p)).2 ∧ (quadratureAt (phaseIndex p)).2 ≤ 16384) := by
  obtain ⟨hcos, hsin⟩ := isQuadrature_phaseIndex p
  exact ⟨hcos.bounds (Real.abs_cos_le_one _), hsin.bounds (Real.abs_sin_le_one _)⟩

theorem pts_quadrature_eq (p : Phase) :
    pts .quadrature p = (low 16 (quadratureAt (phaseIndex p)).1, low 16 (quadratureAt (phaseIndex p)).2) := rfl

/-- The parts of `PTS_default`, read as signed numbers, are the integers of R171. -/
theorem toInt_pts_quadrature (p : Phase) :
    (pts .quadrature p).1.toInt = (quadratureAt (phaseIndex p)).1 ∧
    (pts .quadrature p).2.toInt = (quadratureAt (phaseIndex p)).2 := by
  obtain ⟨⟨hIl, hIu⟩, hQl, hQu⟩ := quadratureAt_bounds p
  rw [pts_quadrature_eq]
  exact ⟨toInt_low16 (by omega) (by omega), toInt_low16 (by omega) (by omega)⟩

/-- Settles O40: R171's table is the rounded cosine on the first quarter, and the quarters follow by quarter turns. -/
theorem defaultPtsIsTheRoundedQuadrature : Obligations.DefaultPtsIsTheRoundedQuadrature := by
  unfold Obligations.DefaultPtsIsTheRoundedQuadrature
  intro p
  obtain ⟨hI, hQ⟩ := toInt_pts_quadrature p
  obtain ⟨hcos, hsin⟩ := isQuadrature_phaseIndex p
  exact ⟨by rw [hI, ← hcos.round]; rfl, by rw [hQ, ← hsin.round]; rfl⟩

theorem phaseIndex_eq_div (p : Phase) : phaseIndex p = p.toNat / 1048576 := by
  have hp := p.isLt
  rw [phaseIndex, BitVec.extractLsb'_toNat, Nat.shiftRight_eq_div_pow]
  omega

theorem phaseIndex_quarterTurn (p : Phase) : phaseIndex (p + 0x40000000) = (phaseIndex p + 1024) % 4096 := by
  have hquarter : (0x40000000 : Phase).toNat = 1073741824 := rfl
  rw [phaseIndex_eq_div, phaseIndex_eq_div, BitVec.toNat_add, hquarter]
  omega

/-- Settles O41: the parts are rounded cosines, they read the index alone, and 0x40000000 moves it by a quarter of its range. -/
theorem defaultPtsRangeAndQuarterTurn : Obligations.DefaultPtsRangeAndQuarterTurn := by
  unfold Obligations.DefaultPtsRangeAndQuarterTurn
  intro p q
  obtain ⟨hI, hQ⟩ := toInt_pts_quadrature p
  obtain ⟨hIturn, hQturn⟩ := toInt_pts_quadrature (p + 0x40000000)
  obtain ⟨hIbounds, hQbounds⟩ := quadratureAt_bounds p
  have hturn := quadratureAt_quarterTurn (phaseIndex_lt p)
  refine ⟨hI ▸ hIbounds, hQ ▸ hQbounds, fun hpq => ?_, ?_, ?_⟩
  · rw [pts_quadrature, pts_quadrature, ptsDefault, ptsDefault, hpq]
  · rw [hIturn, hQ, phaseIndex_quarterTurn, hturn]
  · rw [hQturn, hI, phaseIndex_quarterTurn, hturn]

end Sys2Proof.Machine

/-! # The oscillator's configuration and reads

PROOFS of the family 42_oscillator.md, sections 3 and 4: the configuration writes and their lock, the last write of a run, and the
reads; and the example words. -/

namespace Sys2Proof.Machine

/-- Settles O6: each word is the word of its command. -/
theorem exampleWordsDecode : Obligations.ExampleWordsDecode := by
  unfold Obligations.ExampleWordsDecode
  exact ⟨decode_encode (i := .bxLoad 0x55) rfl, decode_encode (i := .bxPull) rfl, decode_encode (i := .srLoad 1 556) rfl,
    decode_encode (i := .oscSetoffq 0xF000) rfl, decode_encode (i := .oscSetphase 0x40000000) rfl,
    decode_encode (i := .oscRdstat) rfl, decode_encode (i := .oscProcess 1 2 true) rfl⟩

/-! ### One configuration write -/

theorem respond_illegalState : respond .illegalState 0 0 = 0x0200000000000000 := by decide

/-- A 16-bit value in front of which zeros are put is the value zero-extended. -/
theorem zero_append_eq_setWidth (v : Q214) : 0#16 ++ v = v.setWidth 32 := by
  rw [BitVec.setWidth_eq_append (by decide)]
  rfl

/-- A command that is a configuration write (R145), with its own word, is what R146 to R151 say. -/
theorem configCommand_of_exec {i : Instr} {word : Word} {f : Osc → Osc} (hword : encode i = word)
    (hwf : ∀ b, i.wellFormed b = true) (hexec : ∀ s, exec i s = .next (configWrite s (f s.osc))) : ConfigCommand i word f := by
  subst hword
  refine fun s => ⟨decode_encode (hwf _), fun hst => ?_, fun hst => ?_⟩
  · rw [hexec, configWrite_construction hst]
    exact ⟨_, rfl, respond_ok_zero ▸ ⟨rfl, rfl, rfl, rfl, rfl⟩, rfl⟩
  · rw [hexec, configWrite_started hst]
    exact ⟨_, rfl, respond_illegalState ▸ responds_answer s .illegalState 0 0, rfl⟩

/-- A register index that fits 3 bits is all of field A. -/
theorem toNat_registerIndex {a : BitVec 24} (ha : clearAbove 3 a = true) : (a.extractLsb' 0 3).toNat = a.toNat := by
  rw [BitVec.extractLsb'_toNat, Nat.shiftRight_zero, Nat.mod_eq_of_lt ((clearAbove_iff 3 a).1 ha)]

/-- Words under OPC 0x30 with a register index above 5, or a value too wide for the register (R78, R79). -/
theorem decodeFields_oscSet_illegal {b : Build} {a : BitVec 24} {d : BitVec 32}
    (h : 6 ≤ a.toNat ∨ a.toNat ≤ 2 ∧ 2 ^ 16 ≤ d.toNat) : decodeFields b 0x30#8 a d = none := by
  rw [decodeFields_oscSet]
  by_cases ha : clearAbove 3 a = true
  · have hr := toNat_registerIndex ha
    rw [if_pos ha]
    rcases h with h | ⟨h, hd⟩
    · exact decodeOscSet_unassigned d (hr ▸ h)
    · exact decodeOscSet_narrow (hr ▸ h) (mt (clearAbove_iff 16 d).1 hd.not_gt)
  · rw [if_neg ha]

/-- Settles O35: each of the six is a configuration write with its own word, and reserved words do not decode. -/
theorem configurationWritesAndTheirLock : Obligations.ConfigurationWritesAndTheirLock := by
  unfold Obligations.ConfigurationWritesAndTheirLock
  refine ⟨fun c s ho h => answeredIllegal_of_undecodable ?_, fun v x => ?_⟩
  · rw [decode_of_opcField (o := 0x30#8) _ ho, decodeFields_oscSet_illegal h]
  · rw [zero_append_eq_setWidth]
    refine ⟨?_, ?_, ?_, ?_, ?_, ?_⟩
    all_goals exact configCommand_of_exec rfl (fun _ => rfl) fun _ => rfl

/-! ### A run of configuration writes -/

/-- The OSC registers after the configuration write `i` (R146 to R151). -/
def Osc.configure (o : Osc) : Instr → Osc
  | .oscSetamp v => { o with amp := v }
  | .oscSetoffi v => { o with offi := v }
  | .oscSetoffq v => { o with offq := v }
  | .oscSetcoeff v => { o with coeff := v }
  | .oscSetphase v => { o with phase := v }
  | .oscSetfreq v => { o with freq := v }
  | _ => o

@[simp] theorem configure_started (o : Osc) (i : Instr) : (o.configure i).started = o.started := by
  cases i <;> rfl

theorem exec_configure {i : Instr} {s : State} (hi : i.opc = 0x30) (hst : s.osc.started = false) :
    exec i s = .next (State.answer { s with osc := s.osc.configure i } .ok 0 0) := by
  cases i with
  | oscSetamp | oscSetoffi | oscSetoffq | oscSetcoeff | oscSetphase | oscSetfreq =>
    exact congrArg _ (configWrite_construction hst _)
  | _ => simp [Instr.opc] at hi

/-- During construction configuration writes answer, one after another, and act on the OSC registers in their order. -/
theorem runCommands_configure {is : List Instr} {s : State} (his : ∀ i ∈ is, i.opc = 0x30) (hst : s.osc.started = false) :
    ∃ t, runCommands is s = some t ∧ t.osc = is.foldl Osc.configure s.osc := by
  induction is generalizing s with
  | nil => exact ⟨s, rfl, rfl⟩
  | cons i is ih =>
    obtain ⟨hi, hrest⟩ := List.forall_mem_cons.1 his
    obtain ⟨t, hrun, hosc⟩ := ih (s := State.answer { s with osc := s.osc.configure i } .ok 0 0) hrest
      ((configure_started _ _).trans hst)
    exact ⟨t, runCommands_cons.2 ⟨_, exec_configure hi hst, hrun⟩, hosc⟩

theorem foldl_configure_started (o : Osc) (is : List Instr) : (is.foldl Osc.configure o).started = o.started := by
  induction is generalizing o with
  | nil => rfl
  | cons i is ih => rw [List.foldl_cons, ih, configure_started]

/-- A register that each command sets to the value `g` reads from it, or leaves alone where `g` reads none, holds after a run the
last value read. -/
theorem foldl_lastWrite {α : Type} {reg : Osc → α} {g : Instr → Option α}
    (h : ∀ o i, reg (o.configure i) = (g i).getD (reg o)) (is : List Instr) (o : Osc) :
    reg (is.foldl Osc.configure o) = ((is.filterMap g).getLast?).getD (reg o) := by
  induction is generalizing o with
  | nil => rfl
  | cons i is ih =>
    rw [List.foldl_cons, ih, h, List.filterMap_cons]
    cases g i with
    | none => rfl
    | some v => rw [List.getLast?_cons]; rfl

/-- Settles O36: the run is a fold over the OSC registers, and each command sets one of them. -/
theorem lastConfigurationWriteWins : Obligations.LastConfigurationWriteWins := by
  unfold Obligations.LastConfigurationWriteWins
  intro s is hst his
  obtain ⟨t, hrun, hosc⟩ := runCommands_configure his hst
  rw [← foldl_configure_started, ← hosc] at hst
  refine ⟨t, hrun, hst, ?_⟩
  rw [hosc]
  refine ⟨foldl_lastWrite ?_ _ _, foldl_lastWrite ?_ _ _, foldl_lastWrite ?_ _ _, foldl_lastWrite ?_ _ _,
    foldl_lastWrite ?_ _ _, foldl_lastWrite ?_ _ _⟩
  all_goals
    intro o i
    cases i <;> rfl

/-! ### The reads -/

/-- A command that answers a view of the OSC registers, with its own word, is what R153 to R159 say. -/
theorem readCommand_of_exec {i : Instr} {word : Word} {view : Osc → BitVec 32} (hword : encode i = word)
    (hwf : ∀ b, i.wellFormed b = true) (hexec : ∀ s, exec i s = .next (s.answer .ok 0 (view s.osc))) :
    ReadCommand i word view := by
  subst hword
  exact fun s => ⟨decode_encode (hwf _), _, hexec s, responds_answer s .ok 0 _, rfl⟩

theorem zext_eq_zero_append (v : Q214) : zext 32 v = 0#16 ++ v := by
  rw [zext_eq_setWidth, zero_append_eq_setWidth]

theorem status_eq_append (o : Osc) : o.status = 0#30 ++ BitVec.ofBool o.finished ++ BitVec.ofBool o.started := by
  rw [Osc.status]
  cases o.finished <;> cases o.started <;> decide

/-- There is no register 7 to read (R79). -/
theorem decodeOscRd_unassigned {r : BitVec 3} (hr : 7 ≤ r.toNat) : decodeOscRd r = none := by
  have hr : r = 7 := by bv_omega
  rw [hr]
  rfl

theorem decodeFields_oscRd_illegal {b : Build} {a : BitVec 24} {d : BitVec 32} (h : 7 ≤ a.toNat ∨ d ≠ 0) :
    decodeFields b 0x31#8 a d = none := by
  rw [decodeFields_oscRd]
  by_cases hf : clearAbove 3 a = true ∧ d = 0
  · obtain ⟨ha, hd⟩ := hf
    have hr := toNat_registerIndex ha
    rw [if_pos ⟨ha, hd⟩, decodeOscRd_unassigned (hr ▸ h.resolve_right (not_not.2 hd))]
  · rw [if_neg hf]

/-- Settles O37: each of the seven answers its view in every state, and reserved words do not decode. -/
theorem readsReportTheRegisters : Obligations.ReadsReportTheRegisters := by
  unfold Obligations.ReadsReportTheRegisters
  refine ⟨fun c s ho h => answeredIllegal_of_undecodable ?_, ?_⟩
  · rw [decode_of_opcField (o := 0x31#8) _ ho, decodeFields_oscRd_illegal h]
  · simp only [← zext_eq_zero_append, ← status_eq_append]
    refine ⟨?_, ?_, ?_, ?_, ?_, ?_, ?_⟩
    all_goals exact readCommand_of_exec rfl (fun _ => rfl) fun _ => rfl

end Sys2Proof.Machine

/-! # `osc.process`

PROOFS of the family 42_oscillator.md, sections 5 and 6: what an accepted `osc.process` does and answers, and the laws of the
output stream: causality, windowing, the zero coefficient, and where `PTS` enters. -/

namespace Sys2Proof.Machine

/-! ### An accepted `osc.process` over written entries (R160) -/

theorem execOscProcess_accepted {ni no : BitVec 16} (eoi : Bool) {s u : State} (hni : ni.toNat ≤ s.build.depth)
    (hno : no.toNat ≤ s.build.depth) (hu : sampleLoop (min ni.toNat no.toNat) 0 s = .next u) :
    execOscProcess ni no eoi s = .next (finishProcess ni no eoi u) := by
  rw [execOscProcess, if_neg (not_or.2 ⟨hni.not_gt, hno.not_gt⟩), hu]

/-- From `s` to `u` R160's loop ran over the control samples `cs`: only the phase, the frequency and the entries moved, and they are
those of the stream. -/
structure LoopRan (s u : State) (cs : List Q214) : Prop where
  frame : LoopFrame cs.length 0 s u
  osc : u.osc = { s.osc with phase := streamPhase s.osc.coeff s.osc.phase cs, freq := streamFreq s.osc.coeff s.osc.freq cs }
  entries : ∀ k (h : k < (streamOut s.build s.osc s.osc.phase cs).length),
    u.outWin.read k = some (streamOut s.build s.osc s.osc.phase cs)[k]

theorem sampleLoop_holdsIn {s : State} {cs : List Q214} (h : HoldsIn s cs) :
    ∃ u, sampleLoop cs.length 0 s = .next u ∧ LoopRan s u cs := by
  obtain ⟨u, hu, fr, hosc, hout⟩ := sampleLoop_written cs 0 s fun i hi => by rw [Nat.zero_add]; exact h i hi
  exact ⟨u, hu, fr, hosc, fun k hk => by rw [← hout k hk, Nat.zero_add]⟩

theorem execOscProcess_holdsIn {ni no : BitVec 16} (eoi : Bool) {s : State} {cs : List Q214} (hni : ni.toNat ≤ s.build.depth)
    (hno : no.toNat ≤ s.build.depth) (hn : cs.length = min ni.toNat no.toNat) (h : HoldsIn s cs) :
    ∃ u, execOscProcess ni no eoi s = .next (finishProcess ni no eoi u) ∧ LoopRan s u cs := by
  obtain ⟨u, hu, hran⟩ := sampleLoop_holdsIn h
  exact ⟨u, execOscProcess_accepted eoi hni hno (hn ▸ hu), hran⟩

/-- Entries that are written hold some control samples. -/
theorem exists_holdsIn {n : ℕ} {s : State} (h : ∀ j < n, s.inWin.read j ≠ none) : ∃ cs, cs.length = n ∧ HoldsIn s cs := by
  refine ⟨List.ofFn fun j : Fin n => (s.inWin.read j).get (Option.isSome_iff_ne_none.2 (h j j.isLt)), List.length_ofFn, ?_⟩
  intro k hk
  rw [List.getElem_ofFn, Option.some_get]

/-- An accepted `osc.process` that answers has run the loop over control samples that IN held. -/
theorem execOscProcess_inv {ni no : BitVec 16} {eoi : Bool} {s t : State} (hni : ni.toNat ≤ s.build.depth)
    (hno : no.toNat ≤ s.build.depth) (h : execOscProcess ni no eoi s = .next t) :
    ∃ cs u, cs.length = min ni.toNat no.toNat ∧ HoldsIn s cs ∧ LoopRan s u cs ∧ t = finishProcess ni no eoi u := by
  rcases sampleLoop_cases (min ni.toNat no.toNat) 0 s with ⟨u, hu, _, hw⟩ | ⟨j, _, hj, hr, hlt, _⟩
  · obtain ⟨cs, hn, hcs⟩ := exists_holdsIn (n := min ni.toNat no.toNat) (s := s) fun j hj => hw j (Nat.zero_le j) (by omega)
    obtain ⟨v, hv, hran⟩ := sampleLoop_holdsIn hcs
    rw [hn, hu] at hv
    cases hv
    cases (execOscProcess_accepted eoi hni hno hu).symm.trans h
    exact ⟨cs, u, hn, hcs, hran, rfl⟩
  · cases (execOscProcess_unwritten hni hno (by omega) hr fun i => hlt i (Nat.zero_le i)).symm.trans h

/-! ### The answer of `osc.process` -/

/-- With `n = min(ni, no)`, "`n == ni` and `n < no`" says `ni < no` (R161). -/
theorem min_eq_and_lt_iff (ni no : ℕ) : min ni no = ni ∧ min ni no < no ↔ ni < no := by omega

theorem terminates_eq (ni no : BitVec 16) (eoi : Bool) : terminates ni no eoi = (eoi && decide (ni.toNat < no.toNat)) := by
  rw [terminates, Bool.eq_iff_iff]
  simp only [Bool.and_eq_true, beq_iff_eq, decide_eq_true_eq, and_assoc, min_eq_and_lt_iff]

/-- The response that ends an accepted `osc.process` (R163). -/
theorem LoopFrame.responds {n k : ℕ} {s u : State} (fr : LoopFrame n k s u) (ni no : BitVec 16) (eoi : Bool) :
    Responds s (finishProcess ni no eoi u) (respond .ok (flagBits 24 (s.osc.finished || terminates ni no eoi))
      (BitVec.ofNat 16 (min ni.toNat no.toNat) ++ BitVec.ofNat 16 (min ni.toNat no.toNat))) := by
  refine ⟨?_, rfl, fr.build, fr.host, fr.draws⟩
  rw [finishProcess_seen, fr.seen, fr.finished, low, BitVec.ofInt_natCast]

theorem flagBits_eq_append (f : Bool) : flagBits 24 f = 0#23 ++ BitVec.ofBool f := by
  cases f <;> decide

theorem fieldA_oscProcess (ni no : BitVec 16) (eoi : Bool) : (Instr.oscProcess ni no eoi).fieldA = flagBits 24 eoi := rfl

theorem decode_oscProcess (b : Build) (ni no : BitVec 16) (eoi : Bool) :
    decode b (0x40#8 ++ (0#23 ++ BitVec.ofBool eoi) ++ (no ++ ni)) = some (.oscProcess ni no eoi) := by
  rw [← flagBits_eq_append, ← fieldA_oscProcess ni no]
  exact decode_encode (i := .oscProcess ni no eoi) rfl

theorem respond_windowRange : respond .windowRange 0 0 = 0x0300000000000000 := by decide

theorem execOscProcess_refusesWhole {ni no : BitVec 16} (eoi : Bool) {s : State}
    (h : s.build.depth < ni.toNat ∨ s.build.depth < no.toNat) :
    ∃ t, exec (.oscProcess ni no eoi) s = .next t ∧ Responds s t 0x0300000000000000 ∧ t.arch = s.arch :=
  ⟨_, execOscProcess_windowRange h, respond_windowRange ▸ responds_answer s .windowRange 0 0, rfl⟩

/-- Settles O42: over written entries the loop is that of the stream, and the other outcomes are the other branches. -/
theorem processRunsTheKernel : Obligations.ProcessRunsTheKernel := by
  unfold Obligations.ProcessRunsTheKernel
  refine ⟨fun s ni no eoi cs hni hno hn hcs => ⟨decode_oscProcess _ _ _ _, ?_⟩,
    fun s ni no eoi h => execOscProcess_refusesWhole eoi h,
    fun s ni no eoi k hni hno hk hr hlt => execOscProcess_unwritten hni hno hk hr hlt,
    fun c s ho ha => answeredIllegal_of_undecodable ?_⟩
  · obtain ⟨u, hu, hran⟩ := execOscProcess_holdsIn eoi hni hno hn hcs
    have fr := hran.frame
    refine ⟨_, hu, ?_, ?_, fr.bx, fr.sr, fr.inWin, hran.entries, fun k hk => fr.outRead k (.inr (by omega))⟩
    · rw [← flagBits_eq_append, ← terminates_eq]
      exact fr.responds ni no eoi
    · rw [finishProcess_osc, Osc.afterProcess, terminates_eq, hran.osc]
  · rw [decode_of_opcField (o := 0x40#8) _ ho, decodeFields_oscProcess, if_neg (mt (clearAbove_iff 1 _).1 ha.not_gt)]

/-- Settles O45: longer windows take the first branch; within `DEPTH`, written entries leave only the branch that answers OK. -/
theorem windowRangeIsRefusedWhole : Obligations.WindowRangeIsRefusedWhole := by
  unfold Obligations.WindowRangeIsRefusedWhole
  intro s ni no eoi
  refine ⟨execOscProcess_refusesWhole eoi, fun hd => ?_, fun hni hno hw => ?_⟩
  · rw [hd]
    exact not_or.2 ⟨ni.isLt.not_gt, no.isLt.not_gt⟩
  · obtain ⟨cs, hn, hcs⟩ := exists_holdsIn hw
    obtain ⟨u, hu, hran⟩ := execOscProcess_holdsIn eoi hni hno hn hcs
    exact ⟨_, _, hu, hran.frame.responds ni no eoi, opcField_respond _ _ _⟩

theorem getLsbD_flagBits (f : Bool) : (flagBits 24 f).getLsbD 0 = f := by
  cases f <;> decide

/-- A count of samples fits its half of DATA. -/
theorem toNat_count (ni no : BitVec 16) : (BitVec.ofNat 16 (min ni.toNat no.toNat)).toNat = min ni.toNat no.toNat := by
  rw [BitVec.toNat_ofNat, Nat.mod_eq_of_lt ((min_le_left _ _).trans_lt ni.isLt)]

/-- Settles O46: the end of an accepted `osc.process` sets the flag by R161's condition, and the response carries the flag. -/
theorem terminationAndCounts : Obligations.TerminationAndCounts := by
  unfold Obligations.TerminationAndCounts
  intro s t ni no eoi hni hno h
  obtain ⟨cs, u, _, _, hran, rfl⟩ := execOscProcess_inv hni hno h
  have fr := hran.frame
  have hends : (eoi = true ∧ min ni.toNat no.toNat = ni.toNat ∧ min ni.toNat no.toNat < no.toNat) ↔
      (eoi = true ∧ ni.toNat < no.toNat) := by rw [min_eq_and_lt_iff]
  have hfin : (finishProcess ni no eoi u).osc.finished = (s.osc.finished || terminates ni no eoi) := by
    rw [finishProcess_osc, afterProcess_finished, fr.finished]
  refine ⟨?_, hends, _, fr.responds ni no eoi, ?_, ?_, ?_⟩
  · rw [hends, hfin, terminates_eq]
    simp
  · rw [aField_respond, getLsbD_flagBits, hfin]
  · rw [dField_respond, BitVec.extractLsb'_append_eq_right, toNat_count]
  · rw [dField_respond, BitVec.extractLsb'_append_eq_left, toNat_count]

/-! ### The output stream (R164) -/

/-- Output `k` is made from the phase after the first `k` control samples. -/
theorem getElem_streamOut (b : Build) (o : Osc) (p : Phase) (cs : List Q214) {k : ℕ} (hk : k < (streamOut b o p cs).length) :
    (streamOut b o p cs)[k] = outOf (pts b.pts (streamPhase o.coeff p (cs.take k))) o.amp o.offi o.offq := by
  induction cs generalizing p k with
  | nil => exact absurd hk (Nat.not_lt_zero k)
  | cons c cs ih =>
    cases k with
    | zero => rfl
    | succ k => exact ih _ (by simpa using hk)

theorem LoopRan.outEntry {s u : State} {cs : List Q214} (h : LoopRan s u cs) {k : ℕ} (hk : k < cs.length) :
    u.outWin.read k =
      some (outOf (pts s.build.pts (streamPhase s.osc.coeff s.osc.phase (cs.take k))) s.osc.amp s.osc.offi s.osc.offq) := by
  rw [h.entries k (by rwa [streamOut_length]), getElem_streamOut]

/-- Windows that agree below `k` hold the same first `k` control samples. -/
theorem take_eq_of_holdsIn {s s' : State} {cs cs' : List Q214} {k : ℕ} (h : HoldsIn s cs) (h' : HoldsIn s' cs')
    (hk : k ≤ cs.length) (hk' : k ≤ cs'.length) (hr : ∀ j < k, s.inWin.read j = s'.inWin.read j) :
    cs.take k = cs'.take k := by
  refine List.ext_getElem (by simp [hk, hk']) fun j hj _ => ?_
  have hjk : j < k := hj.trans_le (List.length_take_le k cs)
  rw [List.getElem_take, List.getElem_take]
  exact Option.some.inj ((h j _).symm.trans ((hr j hjk).trans (h' j _)))

/-- Settles O47: entry `k <= m` is made from the first `k` control samples, which both windows hold. -/
theorem outputDependsOnEarlierSamplesOnly : Obligations.OutputDependsOnEarlierSamplesOnly := by
  unfold Obligations.OutputDependsOnEarlierSamplesOnly
  intro s s' t t' ni no ni' no' eoi eoi' m hb hosc hr h h' hni hno hni' hno' k hkm hk hk'
  obtain ⟨cs, u, hn, hcs, hran, rfl⟩ := execOscProcess_inv hni hno h
  obtain ⟨cs', u', hn', hcs', hran', rfl⟩ := execOscProcess_inv (hb ▸ hni') (hb ▸ hno') h'
  have htake : cs.take k = cs'.take k :=
    take_eq_of_holdsIn hcs hcs' (by omega) (by omega) fun j hj => hr j (by omega)
  rw [finishProcess_outWin, finishProcess_outWin, hran.outEntry (by omega), hran'.outEntry (by omega), hb, hosc, htake]

/-! ### Windows of a stream (R165) -/

theorem streamPhase_append (coeff : Freq) (p : Phase) (cs ds : List Q214) :
    streamPhase coeff p (cs ++ ds) = streamPhase coeff (streamPhase coeff p cs) ds := by
  induction cs generalizing p with
  | nil => rfl
  | cons c cs ih => exact ih _

theorem streamOut_append (b : Build) (o : Osc) (p : Phase) (cs ds : List Q214) :
    streamOut b o p (cs ++ ds) = streamOut b o p cs ++ streamOut b o (streamPhase o.coeff p cs) ds := by
  induction cs generalizing p with
  | nil => rfl
  | cons c cs ih => exact congrArg _ (ih _)

/-- The entries of a stream depend on the configuration and the phase given. -/
theorem streamOut_congr {o o' : Osc} (hamp : o.amp = o'.amp) (hoffi : o.offi = o'.offi) (hoffq : o.offq = o'.offq)
    (hcoeff : o.coeff = o'.coeff) (b : Build) (p : Phase) (cs : List Q214) : streamOut b o p cs = streamOut b o' p cs := by
  induction cs generalizing p with
  | nil => rfl
  | cons c cs ih => rw [streamOut, streamOut, ih, hamp, hoffi, hoffq, hcoeff]

/-- Filling IN changes nothing else. -/
theorem fillIn_eq_with (cs : List Q214) (k : ℕ) (s : State) : fillIn cs k s = { s with inWin := (fillIn cs k s).inWin } := by
  induction cs generalizing k s with
  | nil => rfl
  | cons c cs ih =>
    rw [fillIn, ih]

@[simp] theorem fillIn_build (cs : List Q214) (k : ℕ) (s : State) : (fillIn cs k s).build = s.build := by
  rw [fillIn_eq_with]

@[simp] theorem fillIn_osc (cs : List Q214) (k : ℕ) (s : State) : (fillIn cs k s).osc = s.osc := by
  rw [fillIn_eq_with]

/-- Filling IN from entry `k` on leaves the entries below alone. -/
theorem read_fillIn_below (cs : List Q214) {j k : ℕ} (h : j < k) (s : State) : (fillIn cs k s).inWin.read j = s.inWin.read j := by
  induction cs generalizing k s with
  | nil => rfl
  | cons c cs ih => rw [fillIn, ih (by omega), read_write_other _ _ h.ne]

theorem read_fillIn (cs : List Q214) (k : ℕ) (s : State) {i : ℕ} (hi : i < cs.length) :
    (fillIn cs k s).inWin.read (k + i) = some cs[i] := by
  induction cs generalizing k s i with
  | nil => exact absurd hi (Nat.not_lt_zero i)
  | cons c cs ih =>
    rw [fillIn]
    cases i with
    | zero => exact (read_fillIn_below cs (Nat.lt_add_one k) _).trans (read_write_same _ _ _)
    | succ i =>
      rw [show k + (i + 1) = k + 1 + i by omega]
      exact ih _ _ _

theorem holdsIn_fillIn (cs : List Q214) (s : State) : HoldsIn (fillIn cs 0 s) cs := fun k hk => by
  rw [← read_fillIn cs 0 s hk, Nat.zero_add]

/-- The host takes the entries that it can read. -/
theorem outEntries_eq {s : State} {es : List Quad} (h : ∀ k (hk : k < es.length), s.outWin.read k = some es[k]) :
    outEntries es.length s = es := by
  have hmap : outEntries es.length s = (List.range es.length).map fun k => es.getD k 0 :=
    List.filterMap_eq_map_iff_forall_eq_some.2 fun k hk => by
      have hk : k < es.length := List.mem_range.1 hk
      rw [h k hk, List.getD_eq_getElem es 0 hk]
  rw [hmap]
  refine List.ext_getElem (by simp) fun k _ hk => ?_
  rw [List.getElem_map, List.getElem_range, List.getD_eq_getElem es 0 hk]

/-- One window of a stream: its entries and the phase it leaves are those of its samples, and the configuration stays. -/
theorem exec_oscProcess_fillIn {w : Window} {s : State} (h : w.fits s.build) :
    ∃ t, exec (.oscProcess w.ni w.no w.eoi) (fillIn w.samples 0 s) = .next t ∧ t.build = s.build ∧
      outEntries w.samples.length t = streamOut s.build s.osc s.osc.phase w.samples ∧
      t.osc.phase = streamPhase s.osc.coeff s.osc.phase w.samples ∧
      t.osc.amp = s.osc.amp ∧ t.osc.offi = s.osc.offi ∧ t.osc.offq = s.osc.offq ∧ t.osc.coeff = s.osc.coeff := by
  obtain ⟨hn, hni, hno⟩ := h
  obtain ⟨u, hu, fr, hosc, hout⟩ := execOscProcess_holdsIn (s := fillIn w.samples 0 s) w.eoi (by rwa [fillIn_build])
    (by rwa [fillIn_build]) hn (holdsIn_fillIn w.samples s)
  simp only [fillIn_build, fillIn_osc] at hosc hout
  refine ⟨_, hu, ?_, ?_, ?_, ?_, ?_, ?_, ?_⟩
  · rw [finishProcess_build, fr.build, fillIn_build]
  · rw [← streamOut_length s.build s.osc s.osc.phase w.samples]
    exact outEntries_eq hout
  all_goals rw [finishProcess_osc, hosc]; rfl

/-- Settles O48: window by window, the samples and the entries of the stream are appended. -/
theorem windowingDoesNotChangeTheStream : Obligations.WindowingDoesNotChangeTheStream := by
  unfold Obligations.WindowingDoesNotChangeTheStream
  intro s windows hfits
  induction windows generalizing s with
  | nil => exact ⟨s, rfl, rfl⟩
  | cons w rest ih =>
    obtain ⟨hw, hrest⟩ := List.forall_mem_cons.1 hfits
    obtain ⟨t, ht, hb, hout, hphase, hamp, hoffi, hoffq, hcoeff⟩ := exec_oscProcess_fillIn hw
    obtain ⟨u, hu, hphase'⟩ := ih t (hb ▸ hrest)
    refine ⟨u, ?_, ?_⟩
    · rw [List.flatMap_cons, streamOut_append, runWindows, ht]
      simp only [hu, Option.map_some, hout, hb, hphase, streamOut_congr hamp hoffi hoffq hcoeff]
    · rw [List.flatMap_cons, streamPhase_append, hphase', hcoeff, hphase]

/-! ### The zero coefficient (R166) -/

theorem freqOf_zero (c : Q214) : freqOf c 0 = 0 := by
  simp [freqOf, asr, low]

theorem phaseStep_zero (p : Phase) : phaseStep p 0 = p := by
  simp [phaseStep, low]

theorem streamPhase_zero (p : Phase) (cs : List Q214) : streamPhase 0 p cs = p := by
  induction cs with
  | nil => rfl
  | cons c cs ih =>
    rw [streamPhase, freqOf_zero]
    exact (congrArg (streamPhase 0 · cs) (phaseStep_zero p)).trans ih

theorem streamFreq_zero (f : Freq) {cs : List Q214} (h : 0 < cs.length) : streamFreq 0 f cs = 0 := by
  rw [streamFreq, List.getLast?_eq_some_getLast (List.ne_nil_of_length_pos h)]
  exact freqOf_zero _

/-- R166's entry under the reset configuration: amplitude 1.0, no offset, phase 0. -/
theorem outOf_reset : outOf (pts .quadrature Osc.reset.phase) Osc.reset.amp Osc.reset.offi Osc.reset.offq = 0x00004000 := by
  decide

/-- Settles O49: every frequency is 0, so every entry is made from the phase found. -/
theorem zeroCoefficientHoldsThePhase : Obligations.ZeroCoefficientHoldsThePhase := by
  unfold Obligations.ZeroCoefficientHoldsThePhase
  intro s ni no eoi cs hz hni hno hn hcs
  obtain ⟨u, hu, hran⟩ := execOscProcess_holdsIn eoi hni hno hn hcs
  have hentry : ∀ k < cs.length,
      u.outWin.read k = some (outOf (pts s.build.pts s.osc.phase) s.osc.amp s.osc.offi s.osc.offq) := fun k hk => by
    rw [hran.outEntry hk, hz, streamPhase_zero]
  refine ⟨_, hu, ?_, fun hpos => ?_, hentry, fun hb ho k hk => ?_⟩
  · rw [finishProcess_osc, hran.osc, hz, streamPhase_zero]
    rfl
  · rw [finishProcess_osc, hran.osc, hz, streamFreq_zero _ hpos]
    rfl
  · rw [finishProcess_outWin, hentry k hk, hb, ho, outOf_reset]

/-! ### Another `PTS` (R167) -/

/-- `s` in a build with another `PTS`, and with another OUT window. -/
def State.withPts (s : State) (p : PtsChoice) (m : Memory Quad) : State :=
  { s with build := { s.build with pts := p }, outWin := m }

/-- A command that cannot stop reads neither `PTS` nor OUT. -/
theorem exec_withPts {i : Instr} {s t : State} (hi : ∀ ni no eoi, i ≠ .oscProcess ni no eoi) (h : exec i s = .next t)
    (p : PtsChoice) (m : Memory Quad) : exec i (s.withPts p m) = .next (t.withPts p m) := by
  cases i with
  | bxPull =>
    by_cases hr : s.bx.rem.toNat = 0
    · cases (execBxPull_exhausted hr).symm.trans h
      exact execBxPull_exhausted (s := s.withPts p m) hr
    · cases (execBxPull_emits hr).symm.trans h
      exact execBxPull_emits (s := s.withPts p m) hr
  | srPull =>
    by_cases hc : s.sr.cnt.toNat = 0
    · cases (execSrPull_exhausted hc).symm.trans h
      exact execSrPull_exhausted (s := s.withPts p m) hc
    · cases (execSrPull_emits hc).symm.trans h
      exact execSrPull_emits (s := s.withPts p m) hc
  | oscSetamp | oscSetoffi | oscSetoffq | oscSetcoeff | oscSetphase | oscSetfreq =>
    cases h
    cases hst : s.osc.started with
    | true =>
      rw [configWrite_started hst]
      exact congrArg _ (configWrite_started (s := s.withPts p m) hst _)
    | false =>
      rw [configWrite_construction hst]
      exact congrArg _ (configWrite_construction (s := s.withPts p m) hst _)
  | oscProcess ni no eoi => exact absurd rfl (hi ni no eoi)
  | bxLoad | bxStat | srLoad | srStat | oscRdamp | oscRdoffi | oscRdoffq | oscRdcoeff | oscRdphase | oscRdfreq | oscRdstat =>
    cases h
    rfl

/-- The loop writes the same indices under any `PTS`, and nothing else it does depends on `PTS`. -/
theorem sampleLoop_withPts {n k : ℕ} {s t : State} (h : sampleLoop n k s = .next t) (p : PtsChoice) {m : Memory Quad}
    (hm : m.map Prod.fst = s.outWin.map Prod.fst) :
    ∃ m', sampleLoop n k (s.withPts p m) = .next (t.withPts p m') ∧ m'.map Prod.fst = t.outWin.map Prod.fst := by
  induction n generalizing k s m with
  | zero =>
    cases h
    exact ⟨m, rfl, hm⟩
  | succ n ih =>
    cases hk : s.inWin.read k with
    | none =>
      simp only [sampleLoop, sampleStep_unwritten hk] at h
      cases h
    | some c =>
      have hk' : (s.withPts p m).inWin.read k = some c := hk
      simp only [sampleLoop, sampleStep_written hk] at h
      simp only [sampleLoop, sampleStep_written hk']
      exact ih h (keys_write m s.outWin k _ _ hm)

/-- Settles O50: the other commands do not read `PTS`, and `osc.process` reads it for the values it writes alone. -/
theorem ptsAffectsOutputEntriesOnly : Obligations.PtsAffectsOutputEntriesOnly := by
  unfold Obligations.PtsAffectsOutputEntriesOnly
  intro i s p
  have hback {t : State} (ht : exec i s = .next t) (m : Memory Quad) :
      { t.withPts p m with build := s.build, outWin := t.outWin } = t := by
    rw [← exec_build ht]
    rfl
  by_cases hi : ∃ ni no eoi, i = .oscProcess ni no eoi
  · obtain ⟨ni, no, eoi, rfl⟩ := hi
    rcases execOscProcess_cases ni no eoi s with ⟨hd, hs⟩ | ⟨hni, hno, ⟨u, hu, _, hs⟩ | ⟨k, hk, hr, hlt, hs⟩⟩
    · exact .inl ⟨_, _, hs, execOscProcess_windowRange (s := s.withPts p s.outWin) hd, hback hs _, rfl⟩
    · obtain ⟨m, hm, hkeys⟩ := sampleLoop_withPts hu p rfl
      exact .inl ⟨_, _, hs, execOscProcess_accepted (s := s.withPts p s.outWin) eoi hni hno hm, hback hs m, hkeys⟩
    · exact .inr ⟨k, hs, execOscProcess_unwritten (s := s.withPts p s.outWin) hni hno hk hr hlt⟩
  · have hne : ∀ ni no eoi, i ≠ .oscProcess ni no eoi := fun ni no eoi h => hi ⟨ni, no, eoi, h⟩
    obtain ⟨t, ht⟩ := exec_answers hne s
    refine .inl ⟨t, _, ht, exec_withPts hne ht p s.outWin, hback ht _, ?_⟩
    rcases exec_window_cases ht with ⟨_, hout⟩ | hp
    · exact congrArg (List.map Prod.fst) hout.symm
    · exact absurd hp hi

end Sys2Proof.Machine

/-! # Errors

PROOFS of the family 60_exceptions.md: which status answers a word, that an error is all its command leaves, and that the idle block
keeps its state. -/

namespace Sys2Proof.Machine

/-! ### The status and its causes (R190, R192) -/

/-- The status that answers the command `i` in `s`: R190's causes for words that decode. -/
def commandStatus (i : Instr) (s : State) : Status :=
  match i with
  | .oscSetamp _ | .oscSetoffi _ | .oscSetoffq _ | .oscSetcoeff _ | .oscSetphase _ | .oscSetfreq _ =>
    if s.osc.started then .illegalState else .ok
  | .oscProcess ni no _ => if s.build.depth < ni.toNat ∨ s.build.depth < no.toNat then .windowRange else .ok
  | _ => .ok

/-- The status that answers the word `c` in `s`: ILLEGAL_COMMAND comes before the causes of a command (R192). -/
def wordStatus (c : Word) (s : State) : Status := ((decode s.build c).map (commandStatus · s)).getD .illegalCommand

theorem wordStatus_of_decode {c : Word} {s : State} {i : Instr} (h : decode s.build c = some i) :
    wordStatus c s = commandStatus i s := by
  rw [wordStatus, h]
  rfl

theorem wordStatus_of_undecodable {c : Word} {s : State} (h : decode s.build c = none) : wordStatus c s = .illegalCommand := by
  rw [wordStatus, h]
  rfl

theorem commandStatus_ne_illegalCommand (i : Instr) (s : State) : commandStatus i s ≠ .illegalCommand := by
  cases i with
  | oscSetamp | oscSetoffi | oscSetoffq | oscSetcoeff | oscSetphase | oscSetfreq | oscProcess =>
    rw [commandStatus]
    split <;> decide
  | _ => exact nofun

theorem commandStatus_eq_illegalState_iff (i : Instr) (s : State) :
    commandStatus i s = .illegalState ↔ i.opc = 0x30 ∧ s.osc.started = true := by
  cases i with
  | oscProcess => simp [commandStatus, Instr.opc, ite_eq_iff]
  | _ => simp [commandStatus, Instr.opc]

theorem commandStatus_eq_windowRange_iff (i : Instr) (s : State) :
    commandStatus i s = .windowRange ↔
      ∃ ni no eoi, i = .oscProcess ni no eoi ∧ (s.build.depth < ni.toNat ∨ s.build.depth < no.toNat) := by
  cases i with
  | oscProcess => simp [commandStatus, or_iff_not_imp_left]
  | _ => simp [commandStatus, ite_eq_iff]

theorem wordStatus_eq_illegalCommand_iff (c : Word) (s : State) :
    wordStatus c s = .illegalCommand ↔ decode s.build c = none := by
  cases hd : decode s.build c with
  | none => simp [wordStatus_of_undecodable hd]
  | some i => simp [wordStatus_of_decode hd, commandStatus_ne_illegalCommand]

theorem wordStatus_eq_illegalState_iff (c : Word) (s : State) :
    wordStatus c s = .illegalState ↔ decode s.build c ≠ none ∧ opcField c = 0x30 ∧ s.osc.started = true := by
  cases hd : decode s.build c with
  | none => simp [wordStatus_of_undecodable hd]
  | some i =>
    have hopc : i.opc = opcField c := (decodeFields_inv hd).opc
    rw [wordStatus_of_decode hd, commandStatus_eq_illegalState_iff, hopc]
    simp

theorem wordStatus_eq_windowRange_iff (c : Word) (s : State) :
    wordStatus c s = .windowRange ↔ ∃ ni no eoi, decode s.build c = some (.oscProcess ni no eoi) ∧
      (s.build.depth < ni.toNat ∨ s.build.depth < no.toNat) := by
  cases hd : decode s.build c with
  | none => simp [wordStatus_of_undecodable hd]
  | some i => simp only [wordStatus_of_decode hd, commandStatus_eq_windowRange_iff, Option.some.injEq]

theorem code_inj {st st' : Status} : st.code = st'.code ↔ st = st' := by
  cases st <;> cases st' <;> decide

theorem code_le_three (st : Status) : st.code.toNat ≤ 3 := by
  cases st <;> decide

/-! ### What an answer with a status leaves (R191) -/

/-- From `s` to `t` a command was answered with status `st`, and where that is not OK, with nothing but it. -/
def AnsweredWith (st : Status) (s t : State) : Prop :=
  ∃ aux data, Responds s t (respond st aux data) ∧ (st ≠ .ok → aux = 0 ∧ data = 0 ∧ t.arch = s.arch)

theorem answeredWith_ok {s t : State} {aux : BitVec 24} {data : BitVec 32} (h : Responds s t (respond .ok aux data)) :
    AnsweredWith .ok s t := ⟨aux, data, h, fun hne => absurd rfl hne⟩

theorem answeredWith_raise (st : Status) (s : State) : AnsweredWith st s (s.raise st) :=
  ⟨0, 0, responds_answer s st 0 0, fun _ => ⟨rfl, rfl, answer_arch s st 0 0⟩⟩

theorem configWrite_answeredWith (s : State) (o : Osc) :
    AnsweredWith (if s.osc.started then .illegalState else .ok) s (configWrite s o) := by
  rcases configWrite_cases s o with ⟨hst, hc⟩ | ⟨hst, hc⟩
  · rw [hst, hc]
    exact answeredWith_raise .illegalState s
  · rw [hst, hc]
    exact answeredWith_ok ⟨rfl, rfl, rfl, rfl, rfl⟩

/-- A command that answers does so with the status its cause gives. -/
theorem exec_answeredWith {i : Instr} {s t : State} (h : exec i s = .next t) : AnsweredWith (commandStatus i s) s t := by
  cases i with
  | bxPull =>
    by_cases hr : s.bx.rem.toNat = 0
    · cases (execBxPull_exhausted hr).symm.trans h
      exact answeredWith_ok (responds_answer _ _ _ _)
    · cases (execBxPull_emits hr).symm.trans h
      exact answeredWith_ok ⟨rfl, rfl, rfl, rfl, rfl⟩
  | srPull =>
    by_cases hc : s.sr.cnt.toNat = 0
    · cases (execSrPull_exhausted hc).symm.trans h
      exact answeredWith_ok (responds_answer _ _ _ _)
    · cases (execSrPull_emits hc).symm.trans h
      exact answeredWith_ok ⟨rfl, rfl, rfl, rfl, rfl⟩
  | oscProcess ni no eoi =>
    rcases execOscProcess_cases ni no eoi s with ⟨hd, hs⟩ | ⟨hni, hno, ⟨u, _, fr, hs⟩ | ⟨_, _, _, _, hs⟩⟩
    · cases hs.symm.trans h
      rw [commandStatus, if_pos hd]
      exact answeredWith_raise .windowRange s
    · cases hs.symm.trans h
      rw [commandStatus, if_neg (not_or.2 ⟨hni.not_gt, hno.not_gt⟩)]
      exact answeredWith_ok (fr.responds ni no eoi)
    · cases hs.symm.trans h
  | oscSetamp | oscSetoffi | oscSetoffq | oscSetcoeff | oscSetphase | oscSetfreq =>
    cases h
    exact configWrite_answeredWith s _
  | bxLoad | bxStat | srLoad | srStat | oscRdamp | oscRdoffi | oscRdoffq | oscRdcoeff | oscRdphase | oscRdfreq | oscRdstat =>
    cases h
    exact answeredWith_ok ⟨rfl, rfl, rfl, rfl, rfl⟩

theorem runWord_answeredWith {c : Word} {s t : State} (h : runWord c s = .next t) : AnsweredWith (wordStatus c s) s t := by
  cases hd : decode s.build c with
  | none =>
    cases (runWord_of_undecodable hd).symm.trans h
    rw [wordStatus_of_undecodable hd]
    exact answeredWith_raise .illegalCommand s
  | some i =>
    rw [wordStatus_of_decode hd]
    exact exec_answeredWith (runWord_of_decode hd ▸ h)

/-- Settles O15: the answer's status is one of the four codes, and where it is not OK it is all the answer leaves. -/
theorem errorStatusChangesNothing : Obligations.ErrorStatusChangesNothing := by
  unfold Obligations.ErrorStatusChangesNothing
  intro s t c h
  obtain ⟨aux, data, hr, herr⟩ := runWord_answeredWith h
  refine ⟨_, hr, ?_⟩
  rw [opcField_respond, aField_respond, dField_respond]
  exact ⟨code_le_three _, fun hne => herr (mt code_inj.2 hne)⟩

/-- Settles O16: the word is answered with `wordStatus`, whose values are R190's causes. -/
theorem statusFollowsTheCause : Obligations.StatusFollowsTheCause := by
  unfold Obligations.StatusFollowsTheCause
  intro s t c h
  obtain ⟨aux, data, hr, _⟩ := runWord_answeredWith h
  refine ⟨_, hr, ?_⟩
  rw [opcField_respond]
  exact ⟨code_le_three _,
    (code_inj (st' := .illegalCommand)).trans (wordStatus_eq_illegalCommand_iff c s),
    (code_inj (st' := .illegalState)).trans (wordStatus_eq_illegalState_iff c s),
    (code_inj (st' := .windowRange)).trans (wordStatus_eq_windowRange_iff c s)⟩

/-! ### Errors are not sticky (R193) -/

theorem Responds.word_unique {s t : State} {r r' : Word} (h : Responds s t r) (h' : Responds s t r') : r = r' := by
  simpa using h.seen.symm.trans h'.seen

theorem sameUnit_of_arch {s t : State} (h : s.arch = t.arch) (u : BlockUnit) : SameUnit u s t := by
  cases u with
  | bx => exact congrArg Arch.bx h
  | sr => exact congrArg Arch.sr h
  | osc => exact ⟨congrArg Arch.osc h, congrArg Arch.inWin h, congrArg Arch.outWin h⟩

/-- What a unit's new state makes of the architectural state depends on the architectural state alone. -/
theorem arch_afterUnit_congr {s t : State} (h : s.arch = t.arch) (u : BlockUnit) (r : State) (w : Word) :
    (s.afterUnit u r w).arch = (t.afterUnit u r w).arch := by
  obtain ⟨hbx, hsr, hosc, hin, hout⟩ := Arch.mk.inj h
  cases u <;> simp [State.arch, State.afterUnit, State.withUnit, hbx, hsr, hosc, hin, hout]

/-- What a command does and answers depends on the build and the architectural state alone (R12). -/
theorem exec_congr_arch {i : Instr} {s t u : State} (hb : s.build = t.build) (ha : s.arch = t.arch) (h : exec i s = .next u) :
    ∃ u' r, exec i t = .next u' ∧ u'.arch = u.arch ∧ Responds s u r ∧ Responds t u' r := by
  obtain ⟨w, hw⟩ := exec_byUnit h
  have hown : exec i s = .next (s.afterUnit (unitOf i) u w) := hw.of_sameUnit rfl (sameUnit_refl _ s)
  have hu : u = s.afterUnit (unitOf i) u w := by simpa [h] using hown
  refine ⟨_, w, hw.of_sameUnit hb (sameUnit_of_arch ha _), ?_, hw.responds,
    responds_afterUnit _ (hw.responds.build.trans hb) w⟩
  calc (t.afterUnit (unitOf i) u w).arch = (s.afterUnit (unitOf i) u w).arch := (arch_afterUnit_congr ha _ u w).symm
    _ = u.arch := congrArg State.arch hu.symm

theorem runWord_congr_arch {c : Word} {s t u : State} (hb : s.build = t.build) (ha : s.arch = t.arch)
    (h : runWord c s = .next u) :
    ∃ u' r, runWord c t = .next u' ∧ u'.arch = u.arch ∧ Responds s u r ∧ Responds t u' r := by
  cases hd : decode s.build c with
  | none =>
    cases (runWord_of_undecodable hd).symm.trans h
    exact ⟨_, _, runWord_of_undecodable (hb ▸ hd), ha.symm, responds_answer s _ _ _, responds_answer t _ _ _⟩
  | some i =>
    rw [runWord_of_decode hd] at h
    rw [runWord_of_decode (hb ▸ hd)]
    exact exec_congr_arch hb ha h

/-- Settles O17: the failed command left the build and the architectural state, and no word's run depends on more. -/
theorem failedCommandLeavesNoTrace : Obligations.FailedCommandLeavesNoTrace := by
  unfold Obligations.FailedCommandLeavesNoTrace
  intro s t u c c' r h hr hne h'
  obtain ⟨r₀, hr₀, _, herr⟩ := errorStatusChangesNothing s t c h
  obtain ⟨_, _, harch⟩ := herr (hr.word_unique hr₀ ▸ hne)
  exact runWord_congr_arch hr.build.symm harch.symm h'

/-! ### Between commands (R206) -/

theorem serve_of_idle {s : State} (h : s.cmdPort = none) : serve s = .next s := by
  simp only [serve, h]

/-- Settles O18: the step is the block's turn, and the idle block does nothing in it. -/
theorem idleBlockKeepsItsState : Obligations.IdleBlockKeepsItsState := by
  unfold Obligations.IdleBlockKeepsItsState
  intro s hc hw
  rw [step_of_hostWaits hw]
  exact serve_of_idle hc

end Sys2Proof.Machine

/-! # Reset

PROOFS of the family 70_reset_and_hazards.md: `rst` acts at any time, and what it leaves is R22's reset state. -/

namespace Sys2Proof.Machine

theorem hostAct_rst (s : State) : hostAct .rst s = .next s.resetBlock := if_neg (by simp)

/-- Whatever the block held, `rst` leaves the architectural state of R22. -/
@[simp] theorem resetBlock_arch (s : State) : s.resetBlock.arch = State.reset.arch := rfl

/-- `rst` is the one host operation that an outstanding command does not hold up (R220). -/
theorem step_rst {s : State} {rest : List HostTurn} (h : s.host = .act .rst :: rest) :
    step s = .next { s with host := rest }.resetBlock :=
  (step_of_hostActs h).trans (hostAct_rst _)

/-- Settles O19: the host's turn resets the block alone, and the values it leaves are R22's. -/
theorem resetGivesTheResetValues : Obligations.ResetGivesTheResetValues := by
  unfold Obligations.ResetGivesTheResetValues
  constructor
  · intro s rest h
    exact ⟨_, step_rst h, resetBlock_cmdPort _, resetBlock_seen _, resetBlock_host _, resetBlock_build _, resetBlock_arch _⟩
  · exact ⟨rfl, rfl, rfl, rfl, rfl, rfl, rfl, rfl, rfl, rfl, rfl, rfl, read_nil, read_nil, rfl⟩

end Sys2Proof.Machine
